-- ==== Sys2Proof/Word.lean ====
section
/-! DEFINITION. The words of the machine (R5, R7): every value is unsigned. -/

namespace Sys2Proof

/-- A memory byte, a V register or a timer: 8 bits (R5). -/
abbrev Byte := BitVec 8

/-- An instruction word, the index register, the program counter or a stack slot: 16 bits (R5). -/
abbrev Word := BitVec 16

/-- A register number, 0 to 15: the fields x and y (R10, R61). Index 15 is VF. -/
abbrev Reg := Fin 16

/-- The 12-bit address immediate nnn (R61). -/
abbrev Imm12 := BitVec 12

/-- A 4-bit field of the instruction word: the height n, or bits a row ignores (R61, R65, R66). -/
abbrev Nibble := BitVec 4

/-- VF, the flag register (R11). -/
abbrev vf : Reg := 15

end Sys2Proof
end

