-- ==== Sys2Proof/Machine/HostInput.lean ====
section
/-! DEFINITION. What the host may do to the core (46_host_transactions.md, 70_reset_and_hazards.md). -/

namespace Sys2Proof.Machine

/-- The operations by which the host drives the core (R151). -/
inductive Transaction where
  /-- One fetch-decode-execute step (R150). -/
  | cycle
  /-- The Timer Unit's decrement (R152). -/
  | tick
  /-- `index` is any non-negative integer (R153). -/
  | keySet (index : Nat) (pressed : Bool)
  /-- A view of the framebuffer (R154). -/
  | displayRead
  /-- Read and reset the redraw flag (R155). -/
  | redrawTake
  /-- Copy a program image to 0x200 (R156). -/
  | loadROM (bytes : List Byte)
  /-- Put all state into its reset value (R190). -/
  | reset
  deriving DecidableEq, Repr, Inhabited

end Sys2Proof.Machine
end

