-- ==== Sys2Proof/Config.lean ====
section
/-! DEFINITION. What the spec leaves open and the model leaves free: the random byte (R157, D25) and the host's order of
transactions (R151, D2). The default glyph table (R14) is `Sys2Proof.Machine.glyphs` in Machine/Memory.lean. -/

namespace Sys2Proof

/-- FREE VALUE (log 4). The byte that the host supplies at the `k`-th draw: "any 8-bit value; one draw per
executed RND" (R111, R157). It has no body: whatever is proved holds for every sequence of draws. -/
opaque Config.randByte (k : Nat) : Byte

/-- FREE VALUE (log 3). The transaction that the host issues at its `k`-th free turn: "The host chooses the order
freely: any finite or infinite sequence" (R151). It has no body: whatever is proved holds for every infinite history. -/
opaque Config.hostChoice (k : Nat) : Machine.Transaction

end Sys2Proof
end

