-- ==== Sys2Proof/Syntax.lean ====
section
/-! DEFINITION. The instructions: one constructor per row of spec/opcode_table.json, in the table's order (R64).
Bits that a row ignores (R65, R66, D12, D13, D15) stay in the constructor, so that every word of the row has its
own instruction; the meanings do not look at them (log 7). -/

namespace Sys2Proof

inductive Instr where
  /-- 0?E0 `CLS`; bits 11:8 are ignored (R130, R65). -/
  | cls (ign : Nibble)
  /-- 0?EE `RET`; bits 11:8 are ignored (R81, R65). -/
  | ret (ign : Nibble)
  /-- 0nnn `SYS nnn`, nnn ignored (R80). -/
  | sys (nnn : Imm12)
  /-- 1nnn `JP nnn` (R82). -/
  | jp (nnn : Imm12)
  /-- 2nnn `CALL nnn` (R83). -/
  | call (nnn : Imm12)
  /-- 3xnn `SE Vx, nn` (R84). -/
  | seImm (x : Reg) (nn : Byte)
  /-- 4xnn `SNE Vx, nn` (R85). -/
  | sneImm (x : Reg) (nn : Byte)
  /-- 5xy_ `SE Vx, Vy`; bits 3:0 are ignored (R86, R66). -/
  | seReg (x y : Reg) (ign : Nibble)
  /-- 6xnn `LD Vx, nn` (R100). -/
  | ldImm (x : Reg) (nn : Byte)
  /-- 7xnn `ADD Vx, nn` (R101). -/
  | addImm (x : Reg) (nn : Byte)
  /-- 8xy0 `LD Vx, Vy` (R102). -/
  | ldReg (x y : Reg)
  /-- 8xy1 `OR Vx, Vy` (R103). -/
  | orReg (x y : Reg)
  /-- 8xy2 `AND Vx, Vy` (R104). -/
  | andReg (x y : Reg)
  /-- 8xy3 `XOR Vx, Vy` (R105). -/
  | xorReg (x y : Reg)
  /-- 8xy4 `ADD Vx, Vy` (R106). -/
  | addReg (x y : Reg)
  /-- 8xy5 `SUB Vx, Vy` (R107). -/
  | subReg (x y : Reg)
  /-- 8xy6 `SHR Vx`; y is ignored (R108). -/
  | shr (x y : Reg)
  /-- 8xy7 `SUBN Vx, Vy` (R109). -/
  | subnReg (x y : Reg)
  /-- 8xyE `SHL Vx`; y is ignored (R110). -/
  | shl (x y : Reg)
  /-- 9xy_ `SNE Vx, Vy`; bits 3:0 are ignored (R87, R66). -/
  | sneReg (x y : Reg) (ign : Nibble)
  /-- Annn `LD I, nnn` (R120). -/
  | ldI (nnn : Imm12)
  /-- Bnnn `JP V0, nnn` (R88). -/
  | jpV0 (nnn : Imm12)
  /-- Cxnn `RND Vx, nn` (R111). -/
  | rnd (x : Reg) (nn : Byte)
  /-- Dxyn `DRW Vx, Vy, n` (R131). -/
  | drw (x y : Reg) (n : Nibble)
  /-- Ex9E `SKP Vx` (R140). -/
  | skp (x : Reg)
  /-- ExA1 `SKNP Vx` (R141). -/
  | sknp (x : Reg)
  /-- Fx07 `LD Vx, DT` (R143). -/
  | ldVxDT (x : Reg)
  /-- Fx0A `LD Vx, K` (R142). -/
  | ldVxK (x : Reg)
  /-- Fx15 `LD DT, Vx` (R144). -/
  | ldDTVx (x : Reg)
  /-- Fx18 `LD ST, Vx` (R145). -/
  | ldSTVx (x : Reg)
  /-- Fx1E `ADD I, Vx` (R121). -/
  | addI (x : Reg)
  /-- Fx29 `LD F, Vx` (R122). -/
  | ldF (x : Reg)
  /-- Fx33 `LD B, Vx` (R123). -/
  | ldB (x : Reg)
  /-- Fx55 `LD [I], Vx` (R124). -/
  | stRegs (x : Reg)
  /-- Fx65 `LD Vx, [I]` (R125). -/
  | ldRegs (x : Reg)
  deriving DecidableEq, Repr

end Sys2Proof
end

