-- ==== Sys2Proof/WellFormed.lean ====
section
/-! DEFINITION. When an instruction is well formed. The types carry the ranges of every field; the one check left is
that `SYS nnn` is not one of the words that are `CLS` or `RET` (R65, R80). -/

namespace Sys2Proof

/-- The low byte of a `SYS` word is neither 0xE0 nor 0xEE (R63, R80). -/
def sysLowByteFree (nnn : Imm12) : Bool :=
  let nn := nnn.extractLsb' 0 8
  nn != 0xE0#8 && nn != 0xEE#8

def Instr.wellFormed : Instr → Bool
  | .sys nnn => sysLowByteFree nnn
  | .cls _ | .ret _ => true
  | .jp _ | .call _ => true
  | .seImm _ _ | .sneImm _ _ | .seReg _ _ _ | .sneReg _ _ _ => true
  | .ldImm _ _ | .addImm _ _ => true
  | .ldReg _ _ | .orReg _ _ | .andReg _ _ | .xorReg _ _ => true
  | .addReg _ _ | .subReg _ _ | .shr _ _ | .subnReg _ _ | .shl _ _ => true
  | .ldI _ | .jpV0 _ | .rnd _ _ | .drw _ _ _ => true
  | .skp _ | .sknp _ => true
  | .ldVxDT _ | .ldVxK _ | .ldDTVx _ | .ldSTVx _ => true
  | .addI _ | .ldF _ | .ldB _ | .stRegs _ | .ldRegs _ => true

end Sys2Proof
end

