-- ==== Sys2Proof/Decode.lean ====
section
/-! DEFINITION. The decoder (R63), total on any word and any bytes, and after it the encoder from the same map (R64). -/

namespace Sys2Proof

/-- Why some bytes are no instruction. -/
inductive DecodeReject where
  /-- The word reaches an `otherwise -> unknown` arm of R63 (R68); the Cycle runs it as a reported no-op (R89). -/
  | unknownOpcode (op : Word)
  /-- Fewer than two bytes were given: every instruction is two bytes (R60). -/
  | truncated
  deriving DecidableEq, Repr

/-! ### Fields of the instruction word (R61) -/

def fieldTop (op : Word) : Nibble := op.extractLsb' 12 4
/-- Bits 11:8 as bits, for the rows of group 0x0 that ignore them (R65). -/
def fieldXBits (op : Word) : Nibble := op.extractLsb' 8 4
def fieldX (op : Word) : Reg := (op.extractLsb' 8 4).toFin
def fieldY (op : Word) : Reg := (op.extractLsb' 4 4).toFin
def fieldN (op : Word) : Nibble := op.extractLsb' 0 4
def fieldNN (op : Word) : Byte := op.extractLsb' 0 8
def fieldNNN (op : Word) : Imm12 := op.extractLsb' 0 12

/-! ### The groups decoded further (R63) -/

/-- Group 0x0, on the low byte: `CLS`, `RET`, otherwise `SYS` (R65). -/
def decodeGroup0 (op : Word) : Instr :=
  match fieldNN op with
  | 0xE0#8 => .cls (fieldXBits op)
  | 0xEE#8 => .ret (fieldXBits op)
  | _ => .sys (fieldNNN op)

/-- Group 0x8, on the low nibble. -/
def decodeGroup8 (op : Word) : Except DecodeReject Instr :=
  let x := fieldX op
  let y := fieldY op
  match fieldN op with
  | 0x0#4 => .ok (.ldReg x y)
  | 0x1#4 => .ok (.orReg x y)
  | 0x2#4 => .ok (.andReg x y)
  | 0x3#4 => .ok (.xorReg x y)
  | 0x4#4 => .ok (.addReg x y)
  | 0x5#4 => .ok (.subReg x y)
  | 0x6#4 => .ok (.shr x y)
  | 0x7#4 => .ok (.subnReg x y)
  | 0xE#4 => .ok (.shl x y)
  | _ => .error (.unknownOpcode op)

/-- Group 0xE, on the low byte. -/
def decodeGroupE (op : Word) : Except DecodeReject Instr :=
  match fieldNN op with
  | 0x9E#8 => .ok (.skp (fieldX op))
  | 0xA1#8 => .ok (.sknp (fieldX op))
  | _ => .error (.unknownOpcode op)

/-- Group 0xF, on the low byte. -/
def decodeGroupF (op : Word) : Except DecodeReject Instr :=
  let x := fieldX op
  match fieldNN op with
  | 0x07#8 => .ok (.ldVxDT x)
  | 0x0A#8 => .ok (.ldVxK x)
  | 0x15#8 => .ok (.ldDTVx x)
  | 0x18#8 => .ok (.ldSTVx x)
  | 0x1E#8 => .ok (.addI x)
  | 0x29#8 => .ok (.ldF x)
  | 0x33#8 => .ok (.ldB x)
  | 0x55#8 => .ok (.stRegs x)
  | 0x65#8 => .ok (.ldRegs x)
  | _ => .error (.unknownOpcode op)

/-- The decode procedure of R63. The opcode numbers are the spec's (D30, log 6). The last line is never reached:
the sixteen values of the top nibble are all above it. -/
def decodeWord (op : Word) : Except DecodeReject Instr :=
  match fieldTop op with
  | 0x0#4 => .ok (decodeGroup0 op)
  | 0x1#4 => .ok (.jp (fieldNNN op))
  | 0x2#4 => .ok (.call (fieldNNN op))
  | 0x3#4 => .ok (.seImm (fieldX op) (fieldNN op))
  | 0x4#4 => .ok (.sneImm (fieldX op) (fieldNN op))
  | 0x5#4 => .ok (.seReg (fieldX op) (fieldY op) (fieldN op))
  | 0x6#4 => .ok (.ldImm (fieldX op) (fieldNN op))
  | 0x7#4 => .ok (.addImm (fieldX op) (fieldNN op))
  | 0x8#4 => decodeGroup8 op
  | 0x9#4 => .ok (.sneReg (fieldX op) (fieldY op) (fieldN op))
  | 0xA#4 => .ok (.ldI (fieldNNN op))
  | 0xB#4 => .ok (.jpV0 (fieldNNN op))
  | 0xC#4 => .ok (.rnd (fieldX op) (fieldNN op))
  | 0xD#4 => .ok (.drw (fieldX op) (fieldY op) (fieldN op))
  | 0xE#4 => decodeGroupE op
  | 0xF#4 => decodeGroupF op
  | _ => .error (.unknownOpcode op)

/-! ### Bytes of a word: big-endian (R46, R48) -/

/-- The word `{hi, lo}`: the byte at the lower address is the high byte (R46). -/
def wordOfBytes (hi lo : Byte) : Word := hi ++ lo

/-- The two bytes of a word as they lie in memory, the first at the lower address (R46). -/
def bytesOfWord (op : Word) : List Byte := [op.extractLsb' 8 8, op.extractLsb' 0 8]

/-- Decode the instruction at the head of a list of bytes, and give back the bytes after it (R60, R63). -/
def decode : List Byte → Except DecodeReject (Instr × List Byte)
  | hi :: lo :: rest => (decodeWord (wordOfBytes hi lo)).map fun i => (i, rest)
  | [_] => .error .truncated
  | [] => .error .truncated

/-! ### The encoder (R64) -/

/-- The register field of a register number. -/
def regBits (r : Reg) : Nibble := BitVec.ofFin r

/-- Formats of R71: `A`, `XI`, `XY` and `XYN`, `XS`, as the fields stand in the word (R61). -/
def wordA (top : Nibble) (nnn : Imm12) : Word := top ++ nnn
def wordXI (top : Nibble) (x : Reg) (nn : Byte) : Word := wordA top (regBits x ++ nn)
def wordXYN (top : Nibble) (x y : Reg) (n : Nibble) : Word := wordXI top x (regBits y ++ n)

/-- The word of an instruction (R64). The ignored bits are encoded as the instruction holds them. -/
def encode : Instr → Word
  | .cls ign => wordA 0x0#4 (ign ++ 0xE0#8)
  | .ret ign => wordA 0x0#4 (ign ++ 0xEE#8)
  | .sys nnn => wordA 0x0#4 nnn
  | .jp nnn => wordA 0x1#4 nnn
  | .call nnn => wordA 0x2#4 nnn
  | .seImm x nn => wordXI 0x3#4 x nn
  | .sneImm x nn => wordXI 0x4#4 x nn
  | .seReg x y ign => wordXYN 0x5#4 x y ign
  | .ldImm x nn => wordXI 0x6#4 x nn
  | .addImm x nn => wordXI 0x7#4 x nn
  | .ldReg x y => wordXYN 0x8#4 x y 0x0#4
  | .orReg x y => wordXYN 0x8#4 x y 0x1#4
  | .andReg x y => wordXYN 0x8#4 x y 0x2#4
  | .xorReg x y => wordXYN 0x8#4 x y 0x3#4
  | .addReg x y => wordXYN 0x8#4 x y 0x4#4
  | .subReg x y => wordXYN 0x8#4 x y 0x5#4
  | .shr x y => wordXYN 0x8#4 x y 0x6#4
  | .subnReg x y => wordXYN 0x8#4 x y 0x7#4
  | .shl x y => wordXYN 0x8#4 x y 0xE#4
  | .sneReg x y ign => wordXYN 0x9#4 x y ign
  | .ldI nnn => wordA 0xA#4 nnn
  | .jpV0 nnn => wordA 0xB#4 nnn
  | .rnd x nn => wordXI 0xC#4 x nn
  | .drw x y n => wordXYN 0xD#4 x y n
  | .skp x => wordXI 0xE#4 x 0x9E#8
  | .sknp x => wordXI 0xE#4 x 0xA1#8
  | .ldVxDT x => wordXI 0xF#4 x 0x07#8
  | .ldVxK x => wordXI 0xF#4 x 0x0A#8
  | .ldDTVx x => wordXI 0xF#4 x 0x15#8
  | .ldSTVx x => wordXI 0xF#4 x 0x18#8
  | .addI x => wordXI 0xF#4 x 0x1E#8
  | .ldF x => wordXI 0xF#4 x 0x29#8
  | .ldB x => wordXI 0xF#4 x 0x33#8
  | .stRegs x => wordXI 0xF#4 x 0x55#8
  | .ldRegs x => wordXI 0xF#4 x 0x65#8

/-- The bytes of an instruction as they lie in memory. -/
def encodeBytes (i : Instr) : List Byte := bytesOfWord (encode i)

/-! ### The opcode map as a list of rows (R64) -/

/-- A row of spec/opcode_table.json: a word is the row's when `op & mask = pattern` and no earlier row matched. -/
structure OpcodeRow where
  number : Nat
  mask : Word
  pattern : Word
  deriving DecidableEq, Repr

def opcodeRows : List OpcodeRow :=
  [⟨1, 0xF0FF, 0x00E0⟩, ⟨2, 0xF0FF, 0x00EE⟩, ⟨3, 0xF000, 0x0000⟩, ⟨4, 0xF000, 0x1000⟩, ⟨5, 0xF000, 0x2000⟩,
   ⟨6, 0xF000, 0x3000⟩, ⟨7, 0xF000, 0x4000⟩, ⟨8, 0xF000, 0x5000⟩, ⟨9, 0xF000, 0x6000⟩, ⟨10, 0xF000, 0x7000⟩] ++
  [⟨11, 0xF00F, 0x8000⟩, ⟨12, 0xF00F, 0x8001⟩, ⟨13, 0xF00F, 0x8002⟩, ⟨14, 0xF00F, 0x8003⟩, ⟨15, 0xF00F, 0x8004⟩,
   ⟨16, 0xF00F, 0x8005⟩, ⟨17, 0xF00F, 0x8006⟩, ⟨18, 0xF00F, 0x8007⟩, ⟨19, 0xF00F, 0x800E⟩] ++
  [⟨20, 0xF000, 0x9000⟩, ⟨21, 0xF000, 0xA000⟩, ⟨22, 0xF000, 0xB000⟩, ⟨23, 0xF000, 0xC000⟩, ⟨24, 0xF000, 0xD000⟩,
   ⟨25, 0xF0FF, 0xE09E⟩, ⟨26, 0xF0FF, 0xE0A1⟩] ++
  [⟨27, 0xF0FF, 0xF007⟩, ⟨28, 0xF0FF, 0xF00A⟩, ⟨29, 0xF0FF, 0xF015⟩, ⟨30, 0xF0FF, 0xF018⟩, ⟨31, 0xF0FF, 0xF01E⟩,
   ⟨32, 0xF0FF, 0xF029⟩, ⟨33, 0xF0FF, 0xF033⟩, ⟨34, 0xF0FF, 0xF055⟩, ⟨35, 0xF0FF, 0xF065⟩]

/-- First match wins (R63). -/
def firstRow (op : Word) : Option OpcodeRow := opcodeRows.find? fun r => op &&& r.mask == r.pattern

/-- The row of R64 that an instruction stands in. -/
def Instr.rowNumber : Instr → Nat
  | .cls _ => 1
  | .ret _ => 2
  | .sys _ => 3
  | .jp _ => 4
  | .call _ => 5
  | .seImm _ _ => 6
  | .sneImm _ _ => 7
  | .seReg _ _ _ => 8
  | .ldImm _ _ => 9
  | .addImm _ _ => 10
  | .ldReg _ _ => 11
  | .orReg _ _ => 12
  | .andReg _ _ => 13
  | .xorReg _ _ => 14
  | .addReg _ _ => 15
  | .subReg _ _ => 16
  | .shr _ _ => 17
  | .subnReg _ _ => 18
  | .shl _ _ => 19
  | .sneReg _ _ _ => 20
  | .ldI _ => 21
  | .jpV0 _ => 22
  | .rnd _ _ => 23
  | .drw _ _ _ => 24
  | .skp _ => 25
  | .sknp _ => 26
  | .ldVxDT _ => 27
  | .ldVxK _ => 28
  | .ldDTVx _ => 29
  | .ldSTVx _ => 30
  | .addI _ => 31
  | .ldF _ => 32
  | .ldB _ => 33
  | .stRegs _ => 34
  | .ldRegs _ => 35

/-! ### The host's question -/

/-- The word of `nbits` bits that `w` numbers as spec/opcode_table.json does; bits above `nbits` are 0. -/
def tableWord (nbits w : Nat) : Word := BitVec.ofNat 16 (w % 2 ^ nbits)

/-- The instruction the decoder reads from the word `w` laid out in memory order; none where it refuses. -/
def decodeTableWord (nbits w : Nat) : Option Instr :=
  match decode (bytesOfWord (tableWord nbits w)) with
  | .ok (i, _) => some i
  | .error _ => none

end Sys2Proof
end

