-- ==== Sys2Proof/Machine/State.lean ====
section
/-! DEFINITION. The state of the core (10_state.md): the tuple V, I, pc, stack, sp, DT, ST, mem, fb, REDRAW, key, FLT,
and four fields of the model's own (response, schedule, driver, draws). All of it is plain data. -/

namespace Sys2Proof.Machine

/-- The seven fault kinds, in the order of their codes (R170). -/
inductive FaultKind where
  /-- A Cycle found pc above 0xFFE (R172). -/
  | fetchRange
  /-- CALL with sp = 16 (R173). -/
  | stackOverflow
  /-- RET with sp = 0 (R174). -/
  | stackUnderflow
  /-- A data access above 0xFFF (R175). -/
  | memRange
  /-- Fx1E with a sum above 0xFFF (R176). -/
  | indexOverflow
  /-- A key skip with V[x] above 15 (R177). -/
  | keyIndex
  /-- LoadROM with more than 3584 bytes (R178). -/
  | loadRange
  deriving DecidableEq, Repr

/-- What `raise Fault(kind, info)` carries (R171). -/
structure FaultInfo where
  kind : FaultKind
  info : Word
  deriving DecidableEq, Repr

/-- The framebuffer, 64 columns by 32 rows, row-major (R24): bit cx of row cy is cell fb[cy * 64 + cx] (log 9).
Cells are read by `cellAt` (Machine/Ops.lean). -/
abbrev FrameBuffer := Vector (BitVec 64) 32

/-- What a transaction returns to the host (R158, R152, R154, R155, R156). -/
inductive Response where
  /-- No transaction yet, or one that returns nothing: KeySet, Reset (R153, R190). -/
  | silent
  /-- A Cycle or LoadROM that completed. -/
  | ok
  /-- A Cycle that executed Fx0A with no key down (R142). -/
  | waiting
  /-- A Cycle that met an unknown opcode (R89). -/
  | unknown (op : Word)
  /-- A Cycle or LoadROM that raised a fault (R171). -/
  | fault (f : FaultInfo)
  /-- A Tick, with its sound edge (R152). -/
  | soundEdge (edge : Bool)
  /-- A DisplayRead, with the 2048 cells (R154). -/
  | display (cells : FrameBuffer)
  /-- A RedrawTake, with the flag it found (R155). -/
  | redraw (was : Bool)
  deriving DecidableEq, Repr

/-- Who issues the transactions that come after those of the schedule (R151; log 3). -/
inductive Driver where
  /-- The host issues Cycles and nothing else. -/
  | cycling
  /-- The host issues what it likes for ever: at its turn `k` the free value `Config.hostChoice k`. -/
  | free (turn : Nat)
  deriving DecidableEq, Repr

/-- Memory as the list of the bytes that differ from their reset value, by rising address
(canonical form: `Memory.wf` in Machine/Memory.lean). -/
abbrev Memory := List Host.Cell

/-- The state of the core. -/
structure State where
  /-- V[0] to V[15] (R10); V[15] is VF (R11). -/
  v : Vector Byte 16
  /-- The index register I (R16). -/
  index : Word
  /-- The program counter (R17). -/
  pc : Word
  /-- The return-address slots stack[0] to stack[15] (R19). -/
  stack : Vector Word 16
  /-- The number of return addresses held, 0 to 16 (R19). -/
  sp : Fin 17
  /-- The delay timer DT (R22). -/
  dt : Byte
  /-- The sound timer ST (R22). -/
  st : Byte
  /-- The one memory (R13). -/
  mem : Memory
  /-- The framebuffer fb (R24). -/
  fb : FrameBuffer
  /-- The redraw-needed flag REDRAW (R25). -/
  redraw : Bool
  /-- The keypad flags key[0] to key[15], true = down (R26). -/
  key : Vector Bool 16
  /-- The sticky fault register FLT, bit (code - 1) per kind (R27). -/
  flt : BitVec 7
  /-- The model's own: what the last transaction returned (log 2). -/
  response : Response
  /-- The model's own: the transactions the host issues next, first first (log 3). -/
  schedule : List Transaction
  /-- The model's own: how the host goes on after the schedule (log 3). -/
  driver : Driver
  /-- The model's own: how many random bytes were drawn (log 4). -/
  draws : Nat
  deriving DecidableEq, Repr

/-- Why the machine stops: it never does. "Nothing in this core is fatal to the hosting process" (R171): every fault
of the spec leaves a state from which the next Cycle runs (R27, R182), so it is a NEXT state (log 1), and this type
has no constructor: nobody raises one. Safe. -/
inductive Fault where
  deriving DecidableEq, Repr

/-- Why an instruction has no meaning. -/
inductive Refusal where
  /-- An arm of `exec` whose meaning is not written yet. No arm raises it: every row has its meaning. Safe. -/
  | notModelled (mnemonic : String)
  deriving DecidableEq, Repr

/-- The outcome of a step of this machine. -/
abbrev Out := Host.Outcome State Fault Refusal

/-- The state after Reset (R31): memory lists nothing, so every byte reads its reset value.
The values of index, sp, redraw and flt are the spec's decisions (log 12); those of the model's own fields are the
model's (logs 2 to 4). -/
def State.reset : State where
  v := Vector.replicate 16 0x00#8
  index := 0x0000#16
  pc := 0x0200#16
  stack := Vector.replicate 16 0x0000#16
  sp := 0
  dt := 0x00#8
  st := 0x00#8
  mem := []
  fb := Vector.replicate 32 0#64
  redraw := false
  key := Vector.replicate 16 false
  flt := 0#7
  response := .silent
  schedule := []
  driver := .cycling
  draws := 0

end Sys2Proof.Machine
end

