-- ==== Sys2Proof/Machine/Memory.lean ====
section
/-! DEFINITION. The one memory of 4096 bytes (R13, R40): its reset contents, reading and writing a byte, and the
canonical form of the list that holds it (log 22). Range checks are in Machine/Ops.lean. -/

namespace Sys2Proof.Machine

/-- GLYPHS at its default (R14, D23, log 5): 16 glyphs of 5 bytes. -/
def glyphs : List Byte :=
  [0xF0, 0x90, 0x90, 0x90, 0xF0,  0x20, 0x60, 0x20, 0x20, 0x70,
   0xF0, 0x10, 0xF0, 0x80, 0xF0,  0xF0, 0x10, 0xF0, 0x10, 0xF0] ++
  [0x90, 0x90, 0xF0, 0x10, 0x10,  0xF0, 0x80, 0xF0, 0x10, 0xF0,
   0xF0, 0x80, 0xF0, 0x90, 0xF0,  0xF0, 0x10, 0x20, 0x40, 0x40] ++
  [0xF0, 0x90, 0xF0, 0x90, 0xF0,  0xF0, 0x90, 0xF0, 0x10, 0xF0,
   0xF0, 0x90, 0xF0, 0x90, 0x90,  0xE0, 0x90, 0xE0, 0x90, 0xE0] ++
  [0xF0, 0x80, 0x80, 0x80, 0xF0,  0xE0, 0x90, 0x90, 0x90, 0xE0,
   0xF0, 0x80, 0xF0, 0x80, 0xF0,  0xF0, 0x80, 0xF0, 0x80, 0x80]

/-- What an unlisted address reads as: its reset byte, GLYPHS at 0x000 to 0x04F and zero elsewhere (R31). -/
def unlistedByte (a : Nat) : Byte := glyphs.getD a 0x00#8

/-- The byte at address `a` (R44, after its check). -/
def Memory.read : Memory → Nat → Byte
  | [], a => unlistedByte a
  | (a', b) :: m, a => if a' = a then b else Memory.read m a

/-- List `b` at address `a`, in its place by rising address. -/
def Memory.put : Memory → Nat → Byte → Memory
  | [], a, b => [(a, b)]
  | (a', b') :: m, a, b =>
    if a < a' then (a, b) :: (a', b') :: m
    else if a = a' then (a, b) :: m
    else (a', b') :: Memory.put m a b

/-- List nothing at address `a`. -/
def Memory.forget (m : Memory) (a : Nat) : Memory := m.filter fun c => c.1 != a

/-- `mem[a] <- b` (R45, after its check), keeping the canonical form. -/
def Memory.write (m : Memory) (a : Nat) (b : Byte) : Memory :=
  if b = unlistedByte a then Memory.forget m a else Memory.put m a b

/-- Write the bytes to `a`, `a + 1`, ..., ascending (R48). -/
def Memory.writeList (m : Memory) (a : Nat) : List Byte → Memory
  | [] => m
  | b :: bs => Memory.writeList (Memory.write m a b) (a + 1) bs

/-- From address `lo` on: strictly rising addresses below 4096, no byte equal to what its address reads as unlisted. -/
def Memory.risesFrom (lo : Nat) : Memory → Bool
  | [] => true
  | (a, b) :: m => decide (lo ≤ a) && decide (a < 4096) && b != unlistedByte a && Memory.risesFrom (a + 1) m

/-- The canonical form of a memory. -/
def Memory.wf (m : Memory) : Bool := Memory.risesFrom 0 m

end Sys2Proof.Machine
end

