-- ==== Sys2Proof/Machine/Ops.lean ====
section
/-! DEFINITION. The named operations over registers, memory, stack and pc (R8), raising a fault (R171), and fetching an
instruction (R46). Every meaning is built from these. -/

namespace Sys2Proof.Machine

/-! ### Registers (R10, R16, R17) -/

/-- `V[r]` (R8). -/
def State.getV (s : State) (r : Reg) : Byte := s.v[r.val]

/-- `V[r] <- b` (R8). There is no hard-wired register (R10). -/
def State.setV (s : State) (r : Reg) (b : Byte) : State := { s with v := s.v.set r.val b }

/-- `I <- w` (R16). -/
def State.setIndex (s : State) (w : Word) : State := { s with index := w }

/-- `pc <- w` (R17). -/
def State.setPc (s : State) (w : Word) : State := { s with pc := w }

/-- `next`: pc + 2, a 16-bit add (R18). -/
def State.advance (s : State) : State := s.setPc (s.pc + 2#16)

/-- `skip`: pc + 4, a 16-bit add (R18). -/
def State.skipOne (s : State) : State := s.setPc (s.pc + 4#16)

/-- `DT <- b` (R22). -/
def State.setDt (s : State) (b : Byte) : State := { s with dt := b }

/-- `ST <- b` (R22). -/
def State.setSt (s : State) (b : Byte) : State := { s with st := b }

/-- `fb <- f` (R24). -/
def State.setFb (s : State) (f : FrameBuffer) : State := { s with fb := f }

/-- `REDRAW <- b` (R25). -/
def State.setRedraw (s : State) (b : Bool) : State := { s with redraw := b }

/-- `mem <- m` (R13). -/
def State.setMem (s : State) (m : Memory) : State := { s with mem := m }

/-- What the transaction returns (R158; log 2). -/
def State.respond (s : State) (r : Response) : State := { s with response := r }

/-! ### How a transaction ends (R158) -/

/-- The instruction completed: the Cycle returns Ok. -/
def complete (s : State) : Out := .next (s.respond .ok)

/-- The instruction completed and ends with `next`. -/
def completeNext (s : State) : Out := complete s.advance

/-- The instruction completed; `skip` if `c` holds, else `next`. -/
def completeSkipIf (c : Bool) (s : State) : Out := complete (if c then s.skipOne else s.advance)

/-! ### Raising a fault (R170, R171)

There is no trap entry (R181) and no trap return (R182): no saved pc, no handler, no mode. -/

/-- The index of the FLT bit of a kind (R27). -/
def FaultKind.bit : FaultKind → Nat
  | .fetchRange => 0
  | .stackOverflow => 1
  | .stackUnderflow => 2
  | .memRange => 3
  | .indexOverflow => 4
  | .keyIndex => 5
  | .loadRange => 6

/-- The code of a kind: one more than its bit (R170). -/
def FaultKind.code (k : FaultKind) : Nat := k.bit + 1

/-- Set the sticky FLT bit of a kind (R27). -/
def State.setFlt (s : State) (k : FaultKind) : State := { s with flt := s.flt ||| BitVec.twoPow 7 k.bit }

/-- `raise Fault(kind, info)` (R171): the transaction changes nothing but the FLT bit of the kind, pc stays at the
instruction, and Fault(kind, info) is returned. The machine goes on (R27, R182), so this is a next state (log 1). -/
def raise (f : FaultInfo) (s : State) : Out := .next ((s.setFlt f.kind).respond (.fault f))

/-- Go on with the result of an access, or raise its fault from the state before the instruction (R171). -/
def orRaise {α : Type} (r : Except FaultInfo α) (s : State) (k : α → Out) : Out :=
  match r with
  | .ok a => k a
  | .error f => raise f s

/-! ### Memory (R44 to R48) -/

/-- The check of the `n` consecutive addresses from `base` (R47; R44 and R45 are its case `n = 1`): the fault it
raises, if any, with the highest address. The sum is exact (R126); `info` keeps 16 bits of it, which is all of it
where I <= 0xFFF (log 11). -/
def rangeFault (base n : Nat) : Option FaultInfo :=
  if 0 < n ∧ 0xFFF < base + n - 1 then some ⟨.memRange, BitVec.ofNat 16 (base + n - 1)⟩ else none

/-- The byte at an address inside the memory. -/
def State.readByte (s : State) (a : Nat) : Byte := s.mem.read a

/-- `MemRead` of the `n` bytes from `base`, ascending, after the check of the whole range (R44, R47). -/
def State.readBytes (s : State) (base n : Nat) : Except FaultInfo (List Byte) :=
  match rangeFault base n with
  | some f => .error f
  | none => .ok ((List.range n).map fun k => s.readByte (base + k))

/-- `MemWrite` of the bytes from `base`, ascending, after the check of the whole range (R45, R47). -/
def State.writeBytes (s : State) (base : Nat) (bs : List Byte) : Except FaultInfo State :=
  match rangeFault base bs.length with
  | some f => .error f
  | none => .ok (s.setMem (s.mem.writeList base bs))

/-- Instruction fetch (R46): both bytes must lie inside the memory; big-endian. -/
def fetch (s : State) : Except FaultInfo Word :=
  if 0xFFE < s.pc.toNat then .error ⟨.fetchRange, s.pc⟩
  else .ok (wordOfBytes (s.readByte s.pc.toNat) (s.readByte (s.pc.toNat + 1)))

/-! ### The call stack (R19 to R21) -/

/-- `Push(w)`: write at the pointer, increment (R20). -/
def State.push (s : State) (w : Word) : Except FaultInfo State :=
  if h : 15 < s.sp.val then .error ⟨.stackOverflow, s.pc⟩
  else .ok { s with
    stack := s.stack.set s.sp.val w (by omega)
    sp := ⟨s.sp.val + 1, by omega⟩ }

/-- `Pop()`: decrement, read; the slot keeps its value (R21). -/
def State.pop (s : State) : Except FaultInfo (Word × State) :=
  if h : s.sp.val = 0 then .error ⟨.stackUnderflow, s.pc⟩
  else .ok (s.stack[s.sp.val - 1]'(by omega), { s with sp := ⟨s.sp.val - 1, by omega⟩ })

/-! ### The framebuffer (R24) -/

/-- Cell `fb[k]`; no cell above 2047 exists, and none is asked for (R188). -/
def cellAt (f : FrameBuffer) (k : Nat) : Bool := if h : k / 64 < 32 then f[k / 64].getLsbD (k % 64) else false

/-- `fb[k] <- fb[k] ^ 1` (R131). -/
def flipCell (f : FrameBuffer) (k : Nat) : FrameBuffer :=
  if h : k / 64 < 32 then f.set (k / 64) (f[k / 64] ^^^ BitVec.twoPow 64 (k % 64)) else f

/-- Every cell 0 (R130). -/
def blank : FrameBuffer := Vector.replicate 32 0#64

/-! ### The keypad (R26) -/

/-- `key[k]`, for an index the caller has checked (R146): false above 15, where it is never asked. -/
def State.keyDown (s : State) (k : Nat) : Bool := if h : k < 16 then s.key[k] else false

/-- The keypad flag that `V[x]` selects, or KEY_INDEX when `V[x] > 15` (R146). -/
def State.keyOf (s : State) (x : Reg) : Except FaultInfo Bool :=
  if 15 < (s.getV x).toNat then .error ⟨.keyIndex, (s.getV x).setWidth 16⟩
  else .ok (s.keyDown (s.getV x).toNat)

/-- The scan of the 16 flags, 0 to 15: the last index that is down (R142). -/
def State.lastKeyDown (s : State) : Option Nat :=
  (List.range 16).foldl (fun found k => if s.keyDown k then some k else found) none

/-! ### The random byte (R157) -/

/-- The free byte of the next draw (log 4). -/
def State.randByte (s : State) : Byte := Config.randByte s.draws

/-- The draw is consumed (R111). -/
def State.countDraw (s : State) : State := { s with draws := s.draws + 1 }

end Sys2Proof.Machine
end

