-- ==== Sys2Proof/Machine/Operands.lean ====
section
/-! DEFINITION. The operand forms (R62, R126) and the values the instructions compute from them. -/

namespace Sys2Proof.Machine

/-! ### Immediates (R62): unsigned, no scaling -/

/-- `zext_16(nnn)`. -/
def immAddr (nnn : Imm12) : Word := nnn.setWidth 16

/-- `zext_16` of a byte. -/
def zextByte (b : Byte) : Word := b.setWidth 16

/-- Registers V[0] to V[x]: `x` as a count is `x + 1` registers (R62). -/
def countOf (x : Reg) : Nat := x.val + 1

/-- The target of `JP V0, nnn`, a 16-bit add (R88). -/
def offsetTarget (s : State) (nnn : Imm12) : Word := immAddr nnn + zextByte (s.getV 0)

/-- `x * 5`, the address of a glyph (R122). -/
def glyphAddr (b : Byte) : Word := zextByte b * 5#16

/-! ### Addressing (R126): I + k, exact, never reduced -/

/-- The base address of `Dxyn`, `Fx33`, `Fx55` and `Fx65`. -/
def State.base (s : State) : Nat := s.index.toNat

/-! ### Results of the arithmetic (R112): exact, then reduced modulo 256 -/

/-- `(a + b) mod 256`. -/
def addBytes (a b : Byte) : Byte := BitVec.ofNat 8 (a.toNat + b.toNat)

/-- `(a - b) mod 256`. -/
def subBytes (a b : Byte) : Byte := BitVec.ofInt 8 (a.toNat - b.toNat)

/-- `a >> 1`: bit 7 becomes 0 (R108). -/
def shiftRight1 (a : Byte) : Byte := a >>> 1

/-- `(a << 1) mod 256`: bit 0 becomes 0 (R110). -/
def shiftLeft1 (a : Byte) : Byte := a <<< 1

/-- Hundreds, tens, units (R123). -/
def digits (a : Byte) : List Byte :=
  [BitVec.ofNat 8 (a.toNat / 100), BitVec.ofNat 8 (a.toNat / 10 % 10), BitVec.ofNat 8 (a.toNat % 10)]

/-! ### Registers in bulk (R124, R125) -/

/-- V[0] to V[x], ascending. -/
def State.regsUpTo (s : State) (x : Reg) : List Byte := s.v.toList.take (countOf x)

/-- `V[i] <- bs[i]` for the bytes given, ascending from V[0]; the registers above keep their values. -/
def State.loadRegs (s : State) (bs : List Byte) : State :=
  { s with v := Vector.ofFn fun r : Reg => bs.getD r.val (s.getV r) }

end Sys2Proof.Machine
end

