-- ==== Sys2Proof/Machine/Flags.lean ====
section
/-! DEFINITION. The flag register VF and every flag the instructions compute (R11). -/

namespace Sys2Proof.Machine

/-- A flag as VF holds it: 1 or 0 (R11). -/
def flagByte (c : Bool) : Byte := if c then 1#8 else 0#8

/-- `V[15] <- flag` (R11). In the flag-writing instructions this is the last write (R113, D16, log 8). -/
def State.setFlag (s : State) (c : Bool) : State := s.setV vf (flagByte c)

/-- `8xy4`: the 9-bit sum exceeds 255 (R106). -/
def carryOf (a b : Byte) : Bool := decide (255 < a.toNat + b.toNat)

/-- `8xy5`, `8xy7`: the minuend is strictly greater than the subtrahend (R107, R109, C5). -/
def greaterOf (minuend subtrahend : Byte) : Bool := decide (subtrahend.toNat < minuend.toNat)

/-- `8xy6`: the bit shifted out is bit 0 (R108). -/
def lowBitOf (a : Byte) : Bool := a.getLsbD 0

/-- `8xyE`: the bit shifted out is bit 7 (R110). -/
def highBitOf (a : Byte) : Bool := a.getLsbD 7

end Sys2Proof.Machine
end

