-- ==== Sys2Proof/Machine/Alu.lean ====
section
/-! DEFINITION. Register load, arithmetic, logic, shift and random instructions (41_alu.md). Operands are latched, the
result is written, the flag is written last (R113, D16, log 8). -/

namespace Sys2Proof.Machine

/-- `LD Vx, nn` (R100). -/
def execLdImm (x : Reg) (nn : Byte) (s : State) : Out := completeNext (s.setV x nn)

/-- `ADD Vx, nn`: wraps, no flag (R101). -/
def execAddImm (x : Reg) (nn : Byte) (s : State) : Out := completeNext (s.setV x (addBytes (s.getV x) nn))

/-- `LD Vx, Vy` (R102, D32). -/
def execLdReg (x y : Reg) (s : State) : Out := completeNext (s.setV x (s.getV y))

/-- `OR Vx, Vy`: no flag (R103). -/
def execOrReg (x y : Reg) (s : State) : Out := completeNext (s.setV x (s.getV x ||| s.getV y))

/-- `AND Vx, Vy`: no flag (R104). -/
def execAndReg (x y : Reg) (s : State) : Out := completeNext (s.setV x (s.getV x &&& s.getV y))

/-- `XOR Vx, Vy`: no flag (R105). -/
def execXorReg (x y : Reg) (s : State) : Out := completeNext (s.setV x (s.getV x ^^^ s.getV y))

/-- `ADD Vx, Vy`: VF is the carry (R106). -/
def execAddReg (x y : Reg) (s : State) : Out :=
  let a := s.getV x
  let b := s.getV y
  completeNext ((s.setV x (addBytes a b)).setFlag (carryOf a b))

/-- `SUB Vx, Vy`: VF is 1 iff V[x] is strictly greater (R107). -/
def execSubReg (x y : Reg) (s : State) : Out :=
  let a := s.getV x
  let b := s.getV y
  completeNext ((s.setV x (subBytes a b)).setFlag (greaterOf a b))

/-- `SHR Vx`: V[x] shifted in place, the y field ignored (R108, D15). -/
def execShr (x : Reg) (s : State) : Out :=
  let a := s.getV x
  completeNext ((s.setV x (shiftRight1 a)).setFlag (lowBitOf a))

/-- `SUBN Vx, Vy`: V[y] - V[x] into V[x]; VF is 1 iff V[y] is strictly greater (R109). -/
def execSubnReg (x y : Reg) (s : State) : Out :=
  let a := s.getV x
  let b := s.getV y
  completeNext ((s.setV x (subBytes b a)).setFlag (greaterOf b a))

/-- `SHL Vx`: V[x] shifted in place, the y field ignored (R110, D15). -/
def execShl (x : Reg) (s : State) : Out :=
  let a := s.getV x
  completeNext ((s.setV x (shiftLeft1 a)).setFlag (highBitOf a))

/-- `RND Vx, nn`: one draw, masked (R111; free value, log 4). -/
def execRnd (x : Reg) (nn : Byte) (s : State) : Out :=
  completeNext (s.countDraw.setV x (s.randByte &&& nn))

end Sys2Proof.Machine
end

