-- ==== Sys2Proof/Machine/Display.lean ====
section
/-! DEFINITION. Clear and the XOR sprite blit (43_display.md). -/

namespace Sys2Proof.Machine

/-- The cell number of column `cx` and row `cy` (R24, D18). -/
def cellOf (cx cy : Nat) : Nat := cy * 64 + cx

/-- The cell of sprite column `c` and row `r` of a sprite at `(ox, oy)`: each axis wraps on its own (R132, C1). -/
def spriteCell (ox oy r c : Nat) : Nat := cellOf ((ox + c) % 64) ((oy + r) % 32)

/-- The framebuffer and whether a cell went from 1 to 0 so far: what a draw carries along (R131). -/
structure Blit where
  fb : FrameBuffer
  collision : Bool
  deriving DecidableEq, Repr

/-- A set sprite bit: collision if the cell was 1, then invert it (R131, R133). -/
def Blit.flip (p : Blit) (k : Nat) : Blit :=
  ⟨flipCell p.fb k, p.collision || cellAt p.fb k⟩

/-- Sprite column `c` of row byte `b` is bit `7 - c` (R133, D19). -/
def spriteBit (b : Byte) (c : Nat) : Bool := b.getLsbD (7 - c)

/-- One pixel of sprite row `r`. -/
def Blit.pixel (ox oy r : Nat) (b : Byte) (p : Blit) (c : Nat) : Blit :=
  if spriteBit b c then p.flip (spriteCell ox oy r c) else p

/-- Sprite row `r`: its 8 columns (R131). -/
def Blit.row (ox oy r : Nat) (b : Byte) (p : Blit) : Blit :=
  (List.range 8).foldl (Blit.pixel ox oy r b) p

/-- The rows of a sprite from row `r` on, top first (R131). -/
def Blit.rows (ox oy : Nat) (r : Nat) (p : Blit) : List Byte → Blit
  | [] => p
  | b :: bs => Blit.rows ox oy (r + 1) (Blit.row ox oy r b p) bs

/-- The origin `(V[x] mod 64, V[y] mod 32)` (R132). -/
def originX (x : Reg) (s : State) : Nat := (s.getV x).toNat % 64
def originY (y : Reg) (s : State) : Nat := (s.getV y).toNat % 32

/-- The blit of sprite bytes `bs` at the origin that V[x] and V[y] give, no collision before it (R131). -/
def blitOf (x y : Reg) (bs : List Byte) (s : State) : Blit :=
  Blit.rows (originX x s) (originY y s) 0 ⟨s.fb, false⟩ bs

/-- `CLS` (R130). -/
def execCls (s : State) : Out := completeNext ((s.setFb blank).setRedraw true)

/-- `DRW Vx, Vy, n` (R131): the coordinates are read before VF is written (D16), VF is the collision, REDRAW is set
whatever was drawn, n = 0 draws nothing (D20). -/
def execDrw (x y : Reg) (n : Nibble) (s : State) : Out :=
  orRaise (s.readBytes s.base n.toNat) s fun bs =>
    let p := blitOf x y bs s
    completeNext (((s.setFb p.fb).setFlag p.collision).setRedraw true)

end Sys2Proof.Machine
end

