-- ==== Sys2Proof/Machine/Flow.lean ====
section
/-! DEFINITION. Control transfer, the no-op group and unknown opcodes (40_flow.md). -/

namespace Sys2Proof.Machine

/-- `SYS nnn`: a silent no-op (R80, C4). -/
def execSys (s : State) : Out := completeNext s

/-- `RET`: pop, then advance past the call site (R81). -/
def execRet (s : State) : Out :=
  orRaise s.pop s fun (w, t) => complete (t.setPc (w + 2#16))

/-- `JP nnn` (R82). -/
def execJp (nnn : Imm12) (s : State) : Out := complete (s.setPc (immAddr nnn))

/-- `CALL nnn`: push the address of this CALL (R83). -/
def execCall (nnn : Imm12) (s : State) : Out :=
  orRaise (s.push s.pc) s fun t => complete (t.setPc (immAddr nnn))

/-- `SE Vx, nn` (R84). -/
def execSeImm (x : Reg) (nn : Byte) (s : State) : Out := completeSkipIf (s.getV x == nn) s

/-- `SNE Vx, nn` (R85). -/
def execSneImm (x : Reg) (nn : Byte) (s : State) : Out := completeSkipIf (s.getV x != nn) s

/-- `SE Vx, Vy` (R86). -/
def execSeReg (x y : Reg) (s : State) : Out := completeSkipIf (s.getV x == s.getV y) s

/-- `SNE Vx, Vy` (R87). -/
def execSneReg (x y : Reg) (s : State) : Out := completeSkipIf (s.getV x != s.getV y) s

/-- `JP V0, nnn`: no flag, the sum is not reduced (R88). -/
def execJpV0 (nnn : Imm12) (s : State) : Out := complete (s.setPc (offsetTarget s nnn))

/-- An unknown opcode: `next`, and the Cycle returns Unknown(op); no fault, FLT kept (R89, D14). -/
def execUnknown (op : Word) (s : State) : Out := .next (s.advance.respond (.unknown op))

end Sys2Proof.Machine
end

