-- ==== Sys2Proof/Machine/IndexMemory.lean ====
section
/-! DEFINITION. Index-register and memory instructions (42_index_memory.md). I is unchanged by the memory ones (R126,
D21); the whole range is checked before anything is written (R47). -/

namespace Sys2Proof.Machine

/-- `LD I, nnn` (R120). -/
def execLdI (nnn : Imm12) (s : State) : Out := completeNext (s.setIndex (immAddr nnn))

/-- `I + V[x]`, exact (R121). -/
def indexSum (x : Reg) (s : State) : Nat := s.index.toNat + (s.getV x).toNat

/-- `ADD I, Vx`: INDEX_OVERFLOW above 0xFFF, no flag (R121, D9). -/
def execAddI (x : Reg) (s : State) : Out :=
  if 0xFFF < indexSum x s then raise ⟨.indexOverflow, BitVec.ofNat 16 (indexSum x s)⟩ s
  else completeNext (s.setIndex (BitVec.ofNat 16 (indexSum x s)))

/-- `LD F, Vx`: five times V[x], not masked (R122, D22). -/
def execLdF (x : Reg) (s : State) : Out := completeNext (s.setIndex (glyphAddr (s.getV x)))

/-- `LD B, Vx`: the three digits at I, I + 1, I + 2 (R123). -/
def execLdB (x : Reg) (s : State) : Out :=
  orRaise (s.writeBytes s.base (digits (s.getV x))) s completeNext

/-- `LD [I], Vx`: V[0] to V[x] to I, I + 1, ..., I + x (R124). -/
def execStRegs (x : Reg) (s : State) : Out :=
  orRaise (s.writeBytes s.base (s.regsUpTo x)) s completeNext

/-- `LD Vx, [I]`: V[0] to V[x] from I, I + 1, ..., I + x (R125). -/
def execLdRegs (x : Reg) (s : State) : Out :=
  orRaise (s.readBytes s.base (countOf x)) s fun bs => completeNext (s.loadRegs bs)

end Sys2Proof.Machine
end

