-- ==== Sys2Proof/Machine/KeypadTimers.lean ====
section
/-! DEFINITION. Keypad and timer instructions (44_keypad_timers.md). -/

namespace Sys2Proof.Machine

/-- `SKP Vx`: skip when key V[x] is down (R140, R146). -/
def execSkp (x : Reg) (s : State) : Out := orRaise (s.keyOf x) s fun down => completeSkipIf down s

/-- `SKNP Vx`: skip when key V[x] is up (R141, R146). -/
def execSknp (x : Reg) (s : State) : Out := orRaise (s.keyOf x) s fun down => completeSkipIf (!down) s

/-- `LD Vx, K`: with no key down nothing is written, pc included, and the Cycle returns Waiting; else V[x] is the
highest index that is down (R142). -/
def execLdVxK (x : Reg) (s : State) : Out :=
  match s.lastKeyDown with
  | none => .next (s.respond .waiting)
  | some k => completeNext (s.setV x (BitVec.ofNat 8 k))

/-- `LD Vx, DT` (R143). -/
def execLdVxDT (x : Reg) (s : State) : Out := completeNext (s.setV x s.dt)

/-- `LD DT, Vx` (R144). -/
def execLdDTVx (x : Reg) (s : State) : Out := completeNext (s.setDt (s.getV x))

/-- `LD ST, Vx`: no edge event (R145, D26). -/
def execLdSTVx (x : Reg) (s : State) : Out := completeNext (s.setSt (s.getV x))

end Sys2Proof.Machine
end

