-- ==== Sys2Proof/Machine/Transactions.lean ====
section
/-! DEFINITION. Which transaction the host issues next, and its transactions other than Cycle (46_host_transactions.md,
70_reset_and_hazards.md). -/

namespace Sys2Proof.Machine

/-- The transaction the host issues next, and the state it is performed on (R151): the first of the schedule; where that
is empty, a Cycle or the host's free choice (log 3). -/
def State.issue (s : State) : Transaction × State :=
  match s.schedule, s.driver with
  | t :: rest, _ => (t, { s with schedule := rest })
  | [], .cycling => (.cycle, s)
  | [], .free turn => (Config.hostChoice turn, { s with driver := .free (turn + 1) })

/-- A counter down by 1 while it is above 0 (R22, R152). -/
def countDown (b : Byte) : Byte := if b = 0#8 then b else b - 1#8

/-- `Tick()`: each counter on its own; the edge is ST going from 1 to 0 (R152, C8). -/
def tick (s : State) : Out :=
  .next (((s.setDt (countDown s.dt)).setSt (countDown s.st)).respond (.soundEdge (s.st == 1#8)))

/-- `key[k] <- pressed`; an index above 15 changes nothing (R153). -/
def State.setKey (s : State) (k : Nat) (pressed : Bool) : State :=
  if h : k < 16 then { s with key := s.key.set k pressed } else s

/-- `KeySet(index, pressed)`: nothing is reported (R153). -/
def keySet (k : Nat) (pressed : Bool) (s : State) : Out := .next ((s.setKey k pressed).respond .silent)

/-- `DisplayRead()`: the cells, and no change (R154). -/
def displayRead (s : State) : Out := .next (s.respond (.display s.fb))

/-- `RedrawTake()`: the flag, then reset (R155). -/
def redrawTake (s : State) : Out := .next ((s.setRedraw false).respond (.redraw s.redraw))

/-- `LoadROM(bytes)`: at most 3584 bytes, verbatim from 0x200; more is LOAD_RANGE and writes nothing (R156, D28). -/
def loadROM (bytes : List Byte) (s : State) : Out :=
  if 3584 < bytes.length then raise ⟨.loadRange, BitVec.ofNat 16 (min bytes.length 0xFFFF)⟩ s
  else complete (s.setMem (s.mem.writeList 0x200 bytes))

/-- `Reset()`: every piece of the core's state at its value of R31 (R190). The host's coming transactions and the count
of draws are outside the core and go on (log 13). -/
def resetState (s : State) : State :=
  { State.reset with schedule := s.schedule, driver := s.driver, draws := s.draws }

/-- `Reset()` returns nothing (R190). -/
def resetCore (s : State) : Out := .next (resetState s)

end Sys2Proof.Machine
end

