-- ==== Sys2Proof/Machine/Step.lean ====
section
/-! DEFINITION. The step: the transaction the host issues next, performed (R151). -/

namespace Sys2Proof.Machine

/-- `Cycle()`: fetch, decode, execute (R150). -/
def cycle (s : State) : Out :=
  orRaise (fetch s) s fun op =>
    match decodeWord op with
    | .ok i => exec i s
    | .error _ => execUnknown op s

/-- One transaction of the host (R151). -/
def transact (t : Transaction) (s : State) : Out :=
  match t with
  | .cycle => cycle s
  | .tick => tick s
  | .keySet k pressed => keySet k pressed s
  | .displayRead => displayRead s
  | .redrawTake => redrawTake s
  | .loadROM bytes => loadROM bytes s
  | .reset => resetCore s

/-- One step: one transaction, the one that the host issues next (R151, log 3). -/
def step (s : State) : Host.Outcome State Fault Refusal := transact s.issue.1 s.issue.2

/-- Where the next Cycle can fetch: pc, or the program base where pc is outside the memory. -/
def State.fetchPc (s : State) : Word := if 0xFFE < s.pc.toNat then 0x200#16 else s.pc

/-- `s` with the table word `w` of `nbits` bits where step fetches next, so that step fetches and runs exactly it: the
schedule is emptied and the host issues Cycles, so that the step is one, and a pc from which no fetch is possible is put
to 0x200 (log 14). -/
def State.withFetchWord (s : State) (nbits w : Nat) : State :=
  { s with
    pc := s.fetchPc
    schedule := []
    driver := .cycling
    mem := s.mem.writeList s.fetchPc.toNat (bytesOfWord (tableWord nbits w)) }

end Sys2Proof.Machine
end

