-- ==== Sys2Proof/Safety.lean ====
section
/-! DEFINITION. What counts as a safe run, the invariant of the machine, and the spec's own tables of what each
instruction may fault on, write and leave in pc, in the terms the statements use. -/

namespace Sys2Proof.Machine

/-! ### Safe runs -/

/-- No fault was raised since Reset: "a claim takes FLT = 0 as a premise" (R182, R203). -/
def State.Safe (s : State) : Prop := s.flt = 0#7

/-- What holds in every reachable state, and rules out the states that no run reaches. -/
structure State.Inv (s : State) : Prop where
  /-- The memory is in its canonical form (log 22). -/
  memCanonical : s.mem.wf = true
  /-- "I <= 0xFFF holds in every reachable state" (R16). -/
  indexInSpace : s.index.toNat ≤ 0xFFF
  /-- The largest value an instruction can leave in pc is 0x10FE (R18). -/
  pcBound : s.pc.toNat ≤ 0x10FE
  /-- Every slot holds 0 or the address of a CALL that was fetched (R81, R198). -/
  slotsFetchable : ∀ k : Fin 16, s.stack[k].toNat ≤ 0xFFE

/-! ### The fault table of the instructions (R170) -/

/-- R47's condition for `n` bytes from `base`, with the address it reports. -/
def rangeCondition (base n : Nat) : Option FaultInfo :=
  if 0 < n ∧ base + n - 1 > 0xFFF then some ⟨.memRange, BitVec.ofNat 16 (base + n - 1)⟩ else none

/-- R146's condition. -/
def keyCondition (k : Byte) : Option FaultInfo :=
  if k.toNat > 15 then some ⟨.keyIndex, BitVec.ofNat 16 k.toNat⟩ else none

/-- The fault that R170 gives an instruction in a state, if any. -/
def faultCondition (i : Instr) (s : State) : Option FaultInfo :=
  match i with
  | .call _ => if s.sp.val = 16 then some ⟨.stackOverflow, s.pc⟩ else none
  | .ret _ => if s.sp.val = 0 then some ⟨.stackUnderflow, s.pc⟩ else none
  | .drw _ _ n => rangeCondition s.index.toNat n.toNat
  | .ldB _ => rangeCondition s.index.toNat 3
  | .stRegs x => rangeCondition s.index.toNat (x.val + 1)
  | .ldRegs x => rangeCondition s.index.toNat (x.val + 1)
  | .addI x =>
    if s.index.toNat + (s.getV x).toNat > 0xFFF then
      some ⟨.indexOverflow, BitVec.ofNat 16 (s.index.toNat + (s.getV x).toNat)⟩
    else none
  | .skp x => keyCondition (s.getV x)
  | .sknp x => keyCondition (s.getV x)
  | .cls _ | .sys _ | .jp _ | .jpV0 _ => none
  | .seImm _ _ | .sneImm _ _ | .seReg _ _ _ | .sneReg _ _ _ => none
  | .ldImm _ _ | .addImm _ _ | .rnd _ _ => none
  | .ldReg _ _ | .orReg _ _ | .andReg _ _ | .xorReg _ _ => none
  | .addReg _ _ | .subReg _ _ | .shr _ _ | .subnReg _ _ | .shl _ _ => none
  | .ldI _ | .ldF _ | .ldVxDT _ | .ldVxK _ | .ldDTVx _ | .ldSTVx _ => none

/-- What a fault leaves (R171): the FLT bit of its kind set, and the fault returned. -/
def afterFault (f : FaultInfo) (s : State) : State :=
  { s with flt := s.flt ||| BitVec.twoPow 7 (f.kind.code - 1), response := .fault f }

/-! ### The registers an instruction writes (R11, R12) -/

/-- The six instructions that write VF as a side effect (R11). -/
def writesFlag : Instr → Bool
  | .addReg _ _ | .subReg _ _ | .shr _ _ | .subnReg _ _ | .shl _ _ | .drw _ _ _ => true
  | .cls _ | .ret _ | .sys _ | .jp _ | .call _ | .jpV0 _ | .ldI _ => false
  | .seImm _ _ | .sneImm _ _ | .seReg _ _ _ | .sneReg _ _ _ => false
  | .ldImm _ _ | .addImm _ _ | .rnd _ _ => false
  | .ldReg _ _ | .orReg _ _ | .andReg _ _ | .xorReg _ _ => false
  | .skp _ | .sknp _ | .ldVxDT _ | .ldVxK _ | .ldDTVx _ | .ldSTVx _ => false
  | .addI _ | .ldF _ | .ldB _ | .stRegs _ | .ldRegs _ => false

/-- The registers that are an instruction's ordinary destination (R12). -/
def isDest : Instr → Reg → Bool
  | .ldImm x _, r | .addImm x _, r | .rnd x _, r | .ldVxDT x, r | .ldVxK x, r => r == x
  | .ldReg x _, r | .orReg x _, r | .andReg x _, r | .xorReg x _, r => r == x
  | .addReg x _, r | .subReg x _, r | .shr x _, r | .subnReg x _, r | .shl x _, r => r == x
  | .ldRegs x, r => decide (r.val ≤ x.val)
  | .cls _, _ | .ret _, _ | .sys _, _ | .jp _, _ | .call _, _ | .jpV0 _, _ | .ldI _, _ => false
  | .seImm _ _, _ | .sneImm _ _, _ | .seReg _ _ _, _ | .sneReg _ _ _, _ | .drw _ _ _, _ => false
  | .skp _, _ | .sknp _, _ | .ldDTVx _, _ | .ldSTVx _, _ => false
  | .addI _, _ | .ldF _, _ | .ldB _, _ | .stRegs _, _ => false

/-! ### The program counter (R18) -/

/-- pc after a skip instruction (R18). -/
def skipPc (c : Prop) [Decidable c] (s : State) : Word := if c then s.pc + 4#16 else s.pc + 2#16

/-- pc after an instruction whose Cycle returns Ok, by the table of R18. -/
def pcWhenOk (i : Instr) (s : State) : Word :=
  match i with
  | .jp nnn | .call nnn => BitVec.ofNat 16 nnn.toNat
  | .jpV0 nnn => BitVec.ofNat 16 (nnn.toNat + (s.getV 0).toNat)
  | .ret _ => s.stack.toList.getD (s.sp.val - 1) 0#16 + 2#16
  | .seImm x nn => skipPc (s.getV x = nn) s
  | .sneImm x nn => skipPc (s.getV x ≠ nn) s
  | .seReg x y _ => skipPc (s.getV x = s.getV y) s
  | .sneReg x y _ => skipPc (s.getV x ≠ s.getV y) s
  | .skp x => skipPc (s.key.toList.getD (s.getV x).toNat false = true) s
  | .sknp x => skipPc (s.key.toList.getD (s.getV x).toNat false = false) s
  | .cls _ | .sys _ => s.pc + 2#16
  | .ldImm _ _ | .addImm _ _ | .rnd _ _ => s.pc + 2#16
  | .ldReg _ _ | .orReg _ _ | .andReg _ _ | .xorReg _ _ => s.pc + 2#16
  | .addReg _ _ | .subReg _ _ | .shr _ _ | .subnReg _ _ | .shl _ _ => s.pc + 2#16
  | .ldI _ | .drw _ _ _ | .ldVxDT _ | .ldVxK _ | .ldDTVx _ | .ldSTVx _ => s.pc + 2#16
  | .addI _ | .ldF _ | .ldB _ | .stRegs _ | .ldRegs _ => s.pc + 2#16

/-! ### The sprite (R132, R133) -/

/-- Whether the sprite of `n` rows at I, with origin (V[x] mod 64, V[y] mod 32), has a set bit on framebuffer cell `k`:
the cell lies `c` columns right of and `r` rows below the origin, each axis on its own ring. -/
def spriteCovers (s : State) (x y : Reg) (n k : Nat) : Bool :=
  let c := (k % 64 + 64 - (s.getV x).toNat % 64) % 64
  let r := (k / 64 + 32 - (s.getV y).toNat % 32) % 32
  decide (r < n) && decide (c < 8) && (s.readByte (s.index.toNat + r)).getLsbD (7 - c)

/-! ### The history of transactions -/

/-- The transaction that the host issues at the `k`-th step from `s` (R151): those of the schedule, and after them Cycles
or the host's free choices for ever (log 3). -/
def State.history (s : State) (k : Nat) : Transaction :=
  match s.schedule[k]?, s.driver with
  | some t, _ => t
  | none, .cycling => .cycle
  | none, .free turn => Config.hostChoice (turn + (k - s.schedule.length))

/-! ### What no instruction reads -/

/-- The state with everything that no instruction reads blotted out: ST (R22), REDRAW (R25), FLT (R27) and the
model's record of the last response (log 2). -/
def State.visible (s : State) : State :=
  { s with st := 0#8, redraw := false, flt := 0#7, response := .silent }

end Sys2Proof.Machine
end

