-- ==== Sys2Proof/Certificates/Slice0/Obligations.lean ====
section
/-! DEFINITION. The statements for the provers. Each docstring names the rule of spec/ it formalises; "log n" is
notes/assumptions/n.md. A Cycle's result stands in `State.response` (log 2), and a fault of the spec is a next state
(log 1), in every statement that names them. -/

open Sys2Proof Sys2Proof.Machine

/-! ### Encoding -/

/-- Decode of encode is the instruction itself, for every well-formed instruction and every value of every field, as a
word and as bytes in memory order with any bytes behind (R61, R63, R64). The opcode numbers are the spec's, which marks
them as general knowledge (D30, log 6). -/
def Obligations.DecodeOfEncode : Prop :=
  ∀ i : Instr, i.wellFormed = true →
    decodeWord (encode i) = .ok i ∧ ∀ rest : List Byte, decode (encodeBytes i ++ rest) = .ok (i, rest)

/-- What decodes encodes back to the very word, and is well formed: no bit of any word is dropped, the ignored ones
included (R65, R66; log 7). -/
def Obligations.EncodeOfDecode : Prop :=
  ∀ (op : Word) (i : Instr), decodeWord op = .ok i → i.wellFormed = true ∧ encode i = op

/-- The decoder of R63 and the opcode map of R64 (first row that matches wins) select the same row of every word. -/
def Obligations.DecodeFollowsOpcodeMap : Prop :=
  ∀ op : Word,
    (match decodeWord op with
      | .ok i => some i.rowNumber
      | .error _ => none) = (firstRow op).map OpcodeRow.number

/-- The unknown words are exactly those of R68's table, each reported with itself; every other word decodes. The
application of unknown-opcode behaviour to them is the spec's decision D14. -/
def Obligations.UnknownWordsAreThoseOfTheGroups : Prop :=
  ∀ op : Word,
    let top := op.toNat / 0x1000
    let n := op.toNat % 0x10
    let nn := op.toNat % 0x100
    if (top = 0x8 ∧ n ∈ [0x8, 0x9, 0xA, 0xB, 0xC, 0xD, 0xF]) ∨ (top = 0xE ∧ nn ∉ [0x9E, 0xA1]) ∨
        (top = 0xF ∧ nn ∉ [0x07, 0x0A, 0x15, 0x18, 0x1E, 0x29, 0x33, 0x55, 0x65]) then
      decodeWord op = .error (.unknownOpcode op)
    else ∃ i, decodeWord op = .ok i

/-- The fields of the instruction word, as numbers, and how they overlap (R61). -/
def Obligations.FieldsOfTheWord : Prop :=
  ∀ op : Word,
    (fieldTop op).toNat = op.toNat / 0x1000 ∧ (fieldX op).val = op.toNat / 0x100 % 0x10 ∧
    (fieldY op).val = op.toNat / 0x10 % 0x10 ∧ (fieldN op).toNat = op.toNat % 0x10 ∧
    (fieldNN op).toNat = op.toNat % 0x100 ∧ (fieldNNN op).toNat = op.toNat % 0x1000 ∧
    fieldNNN op = regBits (fieldX op) ++ regBits (fieldY op) ++ fieldN op ∧
    fieldNN op = regBits (fieldY op) ++ fieldN op

/-- Words written out bit by bit from R61 and R64, one or more of each family, decode to the instruction they stand
for. -/
def Obligations.SampleWordsDecode : Prop :=
  decodeWord 0b0000_0000_1110_0000#16 = .ok (.cls 0) ∧
  decodeWord 0b0000_0000_1110_1110#16 = .ok (.ret 0) ∧
  decodeWord 0b0000_0001_0010_0011#16 = .ok (.sys 0x123) ∧
  decodeWord 0b0001_0010_0000_0100#16 = .ok (.jp 0x204) ∧
  decodeWord 0b0011_0011_0010_1010#16 = .ok (.seImm 3 0x2A) ∧
  decodeWord 0b0101_0001_0010_0001#16 = .ok (.seReg 1 2 1) ∧
  decodeWord 0b0110_1010_0010_1111#16 = .ok (.ldImm 10 0x2F) ∧
  decodeWord 0b1000_0001_0010_0101#16 = .ok (.subReg 1 2) ∧
  decodeWord 0b1010_0010_0010_1010#16 = .ok (.ldI 0x22A) ∧
  decodeWord 0b1101_0101_1010_0111#16 = .ok (.drw 5 10 7) ∧
  decodeWord 0b1110_0010_1010_0001#16 = .ok (.sknp 2) ∧
  decodeWord 0b1111_0100_0000_1010#16 = .ok (.ldVxK 4) ∧
  decodeWord 0b1111_0010_0101_0101#16 = .ok (.stRegs 2)

/-! ### The step -/

/-- Where the two bytes at pc, the high byte first, decode to an instruction, a Cycle is exec of that instruction and
nothing around it (R46, R48, R150): the step of the state itself where the host issues Cycles, and the step of every
state `p` in which the Cycle is issued next, leaving `s` to perform it on (log 3). -/
def Obligations.StepRunsDecodedInstruction : Prop :=
  ∀ (s : State) (i : Instr), s.pc.toNat ≤ 0xFFE →
    decodeWord (wordOfBytes (s.readByte s.pc.toNat) (s.readByte (s.pc.toNat + 1))) = .ok i →
    (s.schedule = [] → s.driver = .cycling → step s = exec i s) ∧
    ∀ p : State, p.issue = (.cycle, s) → step p = exec i s

/-- A Cycle whose pc is above 0xFFE raises FETCH_RANGE with pc and changes nothing else (R46, R172; kind and
precision are the spec's decisions D3, D7). The Cycle is the one issued in `p` and performed on `s` (log 3). -/
def Obligations.FetchBeyondMemoryFaults : Prop :=
  ∀ p s : State, p.issue = (.cycle, s) → 0xFFE < s.pc.toNat →
    step p = .next { s with flt := s.flt ||| 0b0000001#7, response := .fault ⟨.fetchRange, s.pc⟩ }

/-- A Cycle that meets an unknown opcode advances pc by 2, returns Unknown(op) and changes nothing else, FLT included
(R89; the form of the report is the spec's decision D14). The Cycle is the one issued in `p` and performed on `s`
(log 3). -/
def Obligations.UnknownOpcodeIsAReportedNoOp : Prop :=
  ∀ (p s : State) (why : DecodeReject), p.issue = (.cycle, s) → s.pc.toNat ≤ 0xFFE →
    let op := wordOfBytes (s.readByte s.pc.toNat) (s.readByte (s.pc.toNat + 1))
    decodeWord op = .error why →
    step p = .next { s with pc := s.pc + 2, response := .unknown op }

/-- Transactions are performed one at a time, in the host's order, each from the state the one before it left, along any
finite or infinite history (R151): a step performs the first transaction of the schedule; after the schedule it performs
a Cycle, or whatever the host chooses at its next turn; and the transaction issued after `k` steps is the `k`-th of the
host's history, for every `k`. That the history stands in `State.schedule` and `State.driver` is the model's choice; the
host's choice is a free value (log 3). -/
def Obligations.TransactionsRunInTheHostsOrder : Prop :=
  ∀ s : State,
    (∀ (t : Transaction) (rest : List Transaction), s.schedule = t :: rest →
      step s = transact t { s with schedule := rest }) ∧
    (s.schedule = [] → s.driver = .cycling → step s = transact .cycle s) ∧
    (∀ turn : Nat, s.schedule = [] → s.driver = .free turn →
      step s = transact (Config.hostChoice turn) { s with driver := .free (turn + 1) }) ∧
    ∀ (k : Nat) (t : State), Host.Core.run core k s = .next t → t.issue.1 = s.history k

/-- Nothing stops the core: every step answers a next state ("Nothing in this core is fatal", R171; log 1). -/
def Obligations.StepNeverStops : Prop :=
  ∀ s : State, ∃ t, step s = .next t

/-! ### Control flow -/

/-- SYS only advances; the Cycle returns Ok, no diagnostic (R80). -/
def Obligations.SysOnlyAdvances : Prop :=
  ∀ (nnn : Imm12) (s : State), exec (.sys nnn) s = .next { s with pc := s.pc + 2, response := .ok }

/-- RET pops the call site and goes two past it; the slot keeps its value; an empty stack is STACK_UNDERFLOW with
nothing else changed (R81, R21). -/
def Obligations.ReturnPopsTheCallSite : Prop :=
  ∀ (ign : Nibble) (s : State),
    (∀ (n : Nat) (h : n < 16), s.sp.val = n + 1 →
      exec (.ret ign) s =
        .next { s with sp := ⟨n, by omega⟩, pc := s.stack[n] + 2, response := .ok }) ∧
    (s.sp.val = 0 →
      exec (.ret ign) s =
        .next { s with flt := s.flt ||| 0b0000100#7, response := .fault ⟨.stackUnderflow, s.pc⟩ })

/-- CALL pushes its own address and goes to nnn; a full stack is STACK_OVERFLOW with nothing else changed (R83, R20). -/
def Obligations.CallPushesItsOwnAddress : Prop :=
  ∀ (nnn : Imm12) (s : State),
    (∀ (n : Nat) (h : n < 16), s.sp.val = n →
      exec (.call nnn) s =
        .next { s with
          stack := s.stack.set n s.pc, sp := ⟨n + 1, by omega⟩
          pc := BitVec.ofNat 16 nnn.toNat, response := .ok }) ∧
    (s.sp.val = 16 →
      exec (.call nnn) s =
        .next { s with flt := s.flt ||| 0b0000010#7, response := .fault ⟨.stackOverflow, s.pc⟩ })

/-- A RET whose Cycle directly follows a CALL comes back to the instruction after the CALL, with the stack as deep as
before; registers, memory, I and the rest are as before the CALL (R81, R83). -/
def Obligations.ReturnUndoesCall : Prop :=
  ∀ (nnn : Imm12) (ign : Nibble) (s t u : State), s.sp.val < 16 →
    exec (.call nnn) s = .next t → exec (.ret ign) t = .next u →
    u = { s with stack := t.stack, pc := s.pc + 2, response := .ok }

/-- JP: pc = nnn, nothing else (R82). -/
def Obligations.JumpSetsPc : Prop :=
  ∀ (nnn : Imm12) (s : State),
    exec (.jp nnn) s = .next { s with pc := BitVec.ofNat 16 nnn.toNat, response := .ok }

/-- JP V0: pc = nnn + V[0], not reduced, no flag, nothing else (R88). -/
def Obligations.JumpWithOffsetAddsV0 : Prop :=
  ∀ (nnn : Imm12) (s : State),
    exec (.jpV0 nnn) s =
      .next { s with pc := BitVec.ofNat 16 (nnn.toNat + (s.getV 0).toNat), response := .ok }

/-- The four register skips: pc + 4 when the condition holds, else pc + 2 (R84, R85, R86, R87). That the low nibble of
the register forms is ignored is the spec's decision D13 (R66, log 7). -/
def Obligations.RegisterSkips : Prop :=
  ∀ (x y : Reg) (nn : Byte) (ign : Nibble) (s : State),
    exec (.seImm x nn) s =
      .next { s with pc := if s.getV x = nn then s.pc + 4 else s.pc + 2, response := .ok } ∧
    exec (.sneImm x nn) s =
      .next { s with pc := if s.getV x ≠ nn then s.pc + 4 else s.pc + 2, response := .ok } ∧
    exec (.seReg x y ign) s =
      .next { s with pc := if s.getV x = s.getV y then s.pc + 4 else s.pc + 2, response := .ok } ∧
    exec (.sneReg x y ign) s =
      .next { s with pc := if s.getV x ≠ s.getV y then s.pc + 4 else s.pc + 2, response := .ok }

/-! ### Arithmetic and logic -/

/-- LD Vx, nn: V[x] = nn and pc + 2, nothing else (R100). -/
def Obligations.LoadImmediate : Prop :=
  ∀ (x : Reg) (nn : Byte) (s : State),
    exec (.ldImm x nn) s = .next { s with v := s.v.set x nn, pc := s.pc + 2, response := .ok }

/-- ADD Vx, nn: the sum modulo 256, VF not written as a flag (R101). -/
def Obligations.AddImmediateWrapsWithoutFlag : Prop :=
  ∀ (x : Reg) (nn : Byte) (s : State),
    exec (.addImm x nn) s =
      .next { s with
        v := s.v.set x (BitVec.ofNat 8 (((s.getV x).toNat + nn.toNat) % 256))
        pc := s.pc + 2, response := .ok }

/-- LD Vx, Vy copies, no flag. That 8xy0 is the copy is the spec's own supply from general knowledge (R102, D32, log
19). -/
def Obligations.CopyRegister : Prop :=
  ∀ (x y : Reg) (s : State),
    exec (.ldReg x y) s = .next { s with v := s.v.set x (s.getV y), pc := s.pc + 2, response := .ok }

/-- OR, AND and XOR are bitwise, without a flag (R103, R104, R105). -/
def Obligations.LogicIsBitwiseWithoutFlag : Prop :=
  ∀ (x y : Reg) (s : State),
    exec (.orReg x y) s =
      .next { s with v := s.v.set x (s.getV x ||| s.getV y), pc := s.pc + 2, response := .ok } ∧
    exec (.andReg x y) s =
      .next { s with v := s.v.set x (s.getV x &&& s.getV y), pc := s.pc + 2, response := .ok } ∧
    exec (.xorReg x y) s =
      .next { s with v := s.v.set x (s.getV x ^^^ s.getV y), pc := s.pc + 2, response := .ok }

/-- ADD Vx, Vy: V[x] is the sum modulo 256 and VF the carry; where x is F, VF ends as the carry (R106). The order of
the two writes is the spec's decision D16 (R113, log 8). -/
def Obligations.AddRegistersSetsCarry : Prop :=
  ∀ (x y : Reg) (s : State),
    let sum := (s.getV x).toNat + (s.getV y).toNat
    exec (.addReg x y) s =
      .next { s with
        v := (s.v.set x (BitVec.ofNat 8 (sum % 256))).set 15 (if 255 < sum then 1 else 0)
        pc := s.pc + 2, response := .ok }

/-- SUB and SUBN: the difference modulo 256 into V[x], VF 1 iff the minuend is strictly greater, and it is the last
write (R107, R109; the order of the writes is D16, log 8). -/
def Obligations.SubtractionsSetStrictlyGreater : Prop :=
  ∀ (x y : Reg) (s : State),
    let a := (s.getV x).toNat
    let b := (s.getV y).toNat
    exec (.subReg x y) s =
      .next { s with
        v := (s.v.set x (BitVec.ofNat 8 ((a + 256 - b) % 256))).set 15 (if a > b then 1 else 0)
        pc := s.pc + 2, response := .ok } ∧
    exec (.subnReg x y) s =
      .next { s with
        v := (s.v.set x (BitVec.ofNat 8 ((b + 256 - a) % 256))).set 15 (if b > a then 1 else 0)
        pc := s.pc + 2, response := .ok }

/-- SHR and SHL shift V[x] itself by one and put the bit shifted out in VF, last; the y field changes nothing. That
V[x] is the operand is the spec's decision D15, that VF is last its decision D16 (R108, R110; logs 7, 8). -/
def Obligations.ShiftsPutTheLostBitInVF : Prop :=
  ∀ (x y : Reg) (s : State),
    let a := (s.getV x).toNat
    exec (.shr x y) s =
      .next { s with
        v := (s.v.set x (BitVec.ofNat 8 (a / 2))).set 15 (BitVec.ofNat 8 (a % 2))
        pc := s.pc + 2, response := .ok } ∧
    exec (.shl x y) s =
      .next { s with
        v := (s.v.set x (BitVec.ofNat 8 (a * 2 % 256))).set 15 (BitVec.ofNat 8 (a / 128))
        pc := s.pc + 2, response := .ok }

/-- After each of the five flag-writing ALU instructions VF is the flag whatever x is, and where x is not F, V[x] is the
result: no register but V[x] and VF changes (R11, R113). Flag-last is the spec's decision D16 (log 8). -/
def Obligations.FlagIsWrittenLast : Prop :=
  ∀ (x y : Reg) (s : State),
    let a := (s.getV x).toNat
    let b := (s.getV y).toNat
    ∃ t₁ t₂ t₃ t₄ t₅,
      exec (.addReg x y) s = .next t₁ ∧ (t₁.getV 15).toNat = (a + b) / 256 ∧
      exec (.subReg x y) s = .next t₂ ∧ ((t₂.getV 15).toNat = 1 ↔ b < a) ∧
      exec (.shr x y) s = .next t₃ ∧ (t₃.getV 15).toNat = a % 2 ∧
      exec (.subnReg x y) s = .next t₄ ∧ ((t₄.getV 15).toNat = 1 ↔ a < b) ∧
      exec (.shl x y) s = .next t₅ ∧ (t₅.getV 15).toNat = a / 128 ∧
      (x ≠ 15 → (t₁.getV x).toNat = (a + b) % 256 ∧ (t₂.getV x).toNat = (a + 256 - b) % 256 ∧
        (t₃.getV x).toNat = a / 2 ∧ (t₄.getV x).toNat = (b + 256 - a) % 256 ∧
        (t₅.getV x).toNat = a * 2 % 256) ∧
      ∀ r : Reg, r ≠ x → r ≠ 15 →
        t₁.getV r = s.getV r ∧ t₂.getV r = s.getV r ∧ t₃.getV r = s.getV r ∧
        t₄.getV r = s.getV r ∧ t₅.getV r = s.getV r

/-- RND writes the drawn byte masked by nn, for every sequence of draws, and consumes one draw (R111, R157). The draw
is a free value (log 4). -/
def Obligations.RandomIsMaskedDraw : Prop :=
  ∀ (x : Reg) (nn : Byte) (s : State),
    exec (.rnd x nn) s =
      .next { s with
        v := s.v.set x (Config.randByte s.draws &&& nn), draws := s.draws + 1
        pc := s.pc + 2, response := .ok }

/-! ### Index register and memory -/

/-- LD I, nnn: I = nnn and pc + 2, nothing else (R120). -/
def Obligations.LoadIndex : Prop :=
  ∀ (nnn : Imm12) (s : State),
    exec (.ldI nnn) s =
      .next { s with index := BitVec.ofNat 16 nnn.toNat, pc := s.pc + 2, response := .ok }

/-- ADD I, Vx: the sum where it is at most 0xFFF; else INDEX_OVERFLOW with the sum, I and pc unchanged; VF is never
written (R121; no flag is the spec's decision D9). `info` holds the 16 low bits of the sum, all of it where I <= 0xFFF
(log 11). -/
def Obligations.AddIndexFaultsAboveTheSpace : Prop :=
  ∀ (x : Reg) (s : State),
    let sum := s.index.toNat + (s.getV x).toNat
    (sum ≤ 0xFFF →
      exec (.addI x) s =
        .next { s with index := BitVec.ofNat 16 sum, pc := s.pc + 2, response := .ok }) ∧
    (0xFFF < sum →
      exec (.addI x) s =
        .next { s with
          flt := s.flt ||| 0b0010000#7, response := .fault ⟨.indexOverflow, BitVec.ofNat 16 sum⟩ })

/-- LD F, Vx: I is five times V[x], not masked (R122; no masking is the spec's decision D22). -/
def Obligations.FontAddressIsFiveTimesVx : Prop :=
  ∀ (x : Reg) (s : State),
    exec (.ldF x) s =
      .next { s with index := BitVec.ofNat 16 ((s.getV x).toNat * 5), pc := s.pc + 2, response := .ok }

/-- LD B, Vx: hundreds, tens and units at I, I + 1, I + 2, every other byte and everything else unchanged; above 0xFFF
MEM_RANGE with I + 2 and nothing else changed (R123). -/
def Obligations.BcdStoresThreeDigits : Prop :=
  ∀ (x : Reg) (s : State),
    (s.index.toNat + 2 ≤ 0xFFF →
      ∃ t, exec (.ldB x) s = .next t ∧
        t = { s with mem := t.mem, pc := s.pc + 2, response := .ok } ∧
        (t.readByte s.index.toNat).toNat = (s.getV x).toNat / 100 ∧
        (t.readByte (s.index.toNat + 1)).toNat = (s.getV x).toNat / 10 % 10 ∧
        (t.readByte (s.index.toNat + 2)).toNat = (s.getV x).toNat % 10 ∧
        ∀ a : Nat, a < s.index.toNat ∨ s.index.toNat + 2 < a → t.readByte a = s.readByte a) ∧
    (0xFFF < s.index.toNat + 2 →
      exec (.ldB x) s =
        .next { s with
          flt := s.flt ||| 0b0001000#7
          response := .fault ⟨.memRange, BitVec.ofNat 16 (s.index.toNat + 2)⟩ })

/-- LD [I], Vx: V[0] to V[x] to I to I + x, every other byte and everything else unchanged, I and the registers
included; above 0xFFF MEM_RANGE with I + x and nothing else changed (R124). -/
def Obligations.BulkStoreWritesRegisters : Prop :=
  ∀ (x : Reg) (s : State),
    (s.index.toNat + x.val ≤ 0xFFF →
      ∃ t, exec (.stRegs x) s = .next t ∧
        t = { s with mem := t.mem, pc := s.pc + 2, response := .ok } ∧
        (∀ r : Reg, r ≤ x → t.readByte (s.index.toNat + r.val) = s.getV r) ∧
        ∀ a : Nat, a < s.index.toNat ∨ s.index.toNat + x.val < a → t.readByte a = s.readByte a) ∧
    (0xFFF < s.index.toNat + x.val →
      exec (.stRegs x) s =
        .next { s with
          flt := s.flt ||| 0b0001000#7
          response := .fault ⟨.memRange, BitVec.ofNat 16 (s.index.toNat + x.val)⟩ })

/-- LD Vx, [I]: V[0] to V[x] from I to I + x, the registers above and everything else unchanged; above 0xFFF MEM_RANGE
with I + x and nothing else changed (R125). -/
def Obligations.BulkLoadReadsMemory : Prop :=
  ∀ (x : Reg) (s : State),
    (s.index.toNat + x.val ≤ 0xFFF →
      ∃ t, exec (.ldRegs x) s = .next t ∧
        t = { s with v := t.v, pc := s.pc + 2, response := .ok } ∧
        (∀ r : Reg, r ≤ x → t.getV r = s.readByte (s.index.toNat + r.val)) ∧
        ∀ r : Reg, x < r → t.getV r = s.getV r) ∧
    (0xFFF < s.index.toNat + x.val →
      exec (.ldRegs x) s =
        .next { s with
          flt := s.flt ||| 0b0001000#7
          response := .fault ⟨.memRange, BitVec.ofNat 16 (s.index.toNat + x.val)⟩ })

/-- The bulk load is the inverse of the bulk store: from any state with the stored memory and the same I, it brings
V[0] to V[x] back (R124, R125). -/
def Obligations.BulkLoadInvertsBulkStore : Prop :=
  ∀ (x : Reg) (s t u w : State), s.index.toNat + x.val ≤ 0xFFF →
    exec (.stRegs x) s = .next t → u.mem = t.mem → u.index = s.index → exec (.ldRegs x) u = .next w →
    ∀ r : Reg, r ≤ x → w.getV r = s.getV r

/-- A store over the next instruction is what the very next Cycle fetches (R53): where the bulk store writes the two
bytes after itself, the fetch from the state it leaves reads the stored registers. -/
def Obligations.StoredBytesAreFetchedNext : Prop :=
  ∀ (x r r' : Reg) (s t : State), r ≤ x → r' ≤ x → r'.val = r.val + 1 → s.index.toNat + x.val ≤ 0xFFF →
    s.pc.toNat + 2 = s.index.toNat + r.val → exec (.stRegs x) s = .next t →
    fetch t = .ok (wordOfBytes (s.getV r) (s.getV r'))

/-! ### Display -/

/-- CLS: every cell 0 and REDRAW set, nothing else but pc (R130). -/
def Obligations.ClearDisplay : Prop :=
  ∀ (ign : Nibble) (s : State),
    exec (.cls ign) s =
      .next { s with fb := Vector.replicate 32 0, redraw := true, pc := s.pc + 2, response := .ok } ∧
    ∀ k : Nat, cellAt (Vector.replicate 32 0) k = false

/-- DRW: where the sprite lies in memory, each cell is XORed with the sprite bit that covers it, VF is 1 iff a set cell
was covered by a set bit, REDRAW is set, and nothing else changes; where it does not, MEM_RANGE with nothing else
changed (R131, R132, R133). Wrap per axis, bit order, n = 0 and the latched coordinates are the spec's decisions D17,
D19, D20, D16; the flattening D18 (log 16). -/
def Obligations.DrawXorsTheSprite : Prop :=
  ∀ (x y : Reg) (n : Nibble) (s : State),
    (s.index.toNat + n.toNat ≤ 0x1000 ∨ n = 0 →
      ∃ t, exec (.drw x y n) s = .next t ∧
        t = { s with v := s.v.set 15 (t.getV 15), fb := t.fb, redraw := true, pc := s.pc + 2, response := .ok } ∧
        (∀ k : Nat, k < 2048 → cellAt t.fb k = (cellAt s.fb k ^^ spriteCovers s x y n.toNat k)) ∧
        ((∃ k : Nat, cellAt s.fb k = true ∧ spriteCovers s x y n.toNat k = true) → t.getV 15 = 1) ∧
        ((∀ k : Nat, cellAt s.fb k = true → spriteCovers s x y n.toNat k = false) → t.getV 15 = 0)) ∧
    (0x1000 < s.index.toNat + n.toNat ∧ n ≠ 0 →
      exec (.drw x y n) s =
        .next { s with
          flt := s.flt ||| 0b0001000#7
          response := .fault ⟨.memRange, BitVec.ofNat 16 (s.index.toNat + n.toNat - 1)⟩ })

/-- Drawing the same sprite at the same place again restores the framebuffer, since XOR is its own inverse (R131 (f)):
the second draw may follow in any state with the framebuffer the first left and the same I, memory and coordinates. -/
def Obligations.DrawingTwiceRestoresTheDisplay : Prop :=
  ∀ (x y : Reg) (n : Nibble) (s t u w : State),
    exec (.drw x y n) s = .next t → t.response = .ok →
    u.fb = t.fb → u.index = s.index → u.mem = s.mem → u.getV x = s.getV x → u.getV y = s.getV y →
    exec (.drw x y n) u = .next w → w.fb = s.fb

/-! ### Keypad and timers -/

/-- SKP and SKNP: skip on the flag that V[x] selects; an index above 15 is KEY_INDEX with nothing else changed (R140,
R141, R146). The fault is the spec's decision D10; which low byte means pressed is its general knowledge (log 19). -/
def Obligations.KeySkips : Prop :=
  ∀ (x : Reg) (k : Nat) (s : State), k = (s.getV x).toNat →
    (∀ h : k < 16,
      exec (.skp x) s =
        .next { s with pc := if s.key[k] = true then s.pc + 4 else s.pc + 2, response := .ok } ∧
      exec (.sknp x) s =
        .next { s with pc := if s.key[k] = false then s.pc + 4 else s.pc + 2, response := .ok }) ∧
    (15 < k →
      exec (.skp x) s =
        .next { s with flt := s.flt ||| 0b0100000#7, response := .fault ⟨.keyIndex, BitVec.ofNat 16 k⟩ } ∧
      exec (.sknp x) s =
        .next { s with flt := s.flt ||| 0b0100000#7, response := .fault ⟨.keyIndex, BitVec.ofNat 16 k⟩ })

/-- LD Vx, K: with no key down the Cycle returns Waiting and changes nothing, pc included; with keys down V[x] is the
highest index that is down (R142). -/
def Obligations.KeyWaitTakesTheHighestKey : Prop :=
  ∀ (x : Reg) (s : State),
    ((∀ k : Fin 16, s.key[k] = false) → exec (.ldVxK x) s = .next { s with response := .waiting }) ∧
    ∀ k : Fin 16, s.key[k] = true → (∀ j : Fin 16, k < j → s.key[j] = false) →
      exec (.ldVxK x) s =
        .next { s with v := s.v.set x (BitVec.ofNat 8 k.val), pc := s.pc + 2, response := .ok }

/-- The timer moves: V[x] from DT, DT from V[x], ST from V[x]; writing ST reports no edge (R143, R144, R145). Which
opcode reaches which timer is the spec's general knowledge (D31, log 19). -/
def Obligations.TimerMoves : Prop :=
  ∀ (x : Reg) (s : State),
    exec (.ldVxDT x) s = .next { s with v := s.v.set x s.dt, pc := s.pc + 2, response := .ok } ∧
    exec (.ldDTVx x) s = .next { s with dt := s.getV x, pc := s.pc + 2, response := .ok } ∧
    exec (.ldSTVx x) s = .next { s with st := s.getV x, pc := s.pc + 2, response := .ok }

/-! ### Host transactions -/

/-- Tick: each counter down by 1 while it is above 0, the edge exactly when ST was 1, nothing else changed (R152). -/
def Obligations.TickCountsDown : Prop :=
  ∀ s : State, ∃ t, transact .tick s = .next t ∧
    t = { s with dt := t.dt, st := t.st, response := .soundEdge (decide (s.st.toNat = 1)) } ∧
    t.dt.toNat = s.dt.toNat - 1 ∧ t.st.toNat = s.st.toNat - 1

/-- Any number of Ticks in a row takes each timer down to 0 and never below (R22, R152): after n of them DT and ST are
lower by n, floored at 0, and nothing else but the response changed. The Ticks stand in the schedule (log 3). -/
def Obligations.RepeatedTicksFloorAtZero : Prop :=
  ∀ (n : Nat) (s : State), s.schedule = List.replicate n .tick →
    ∃ t : State, Host.Core.run core n s = .next t ∧
      t = { s with dt := t.dt, st := t.st, schedule := [], response := t.response } ∧
      t.dt.toNat = s.dt.toNat - n ∧ t.st.toNat = s.st.toNat - n

/-- KeySet changes the one flag it names and nothing else, and nothing at all for an index above 15 (R153). -/
def Obligations.KeySetChangesOneFlag : Prop :=
  ∀ (k : Nat) (pressed : Bool) (s : State),
    (∀ h : k < 16, transact (.keySet k pressed) s =
      .next { s with key := s.key.set k pressed, response := .silent }) ∧
    (15 < k → transact (.keySet k pressed) s = .next { s with response := .silent })

/-- DisplayRead returns the 2048 cells and changes no state; RedrawTake returns the flag and clears it (R154, R155). -/
def Obligations.DisplayReadAndRedrawTake : Prop :=
  ∀ s : State,
    transact .displayRead s = .next { s with response := .display s.fb } ∧
    transact .redrawTake s = .next { s with redraw := false, response := .redraw s.redraw }

/-- LoadROM copies at most 3584 bytes verbatim from 0x200 and changes no other byte and nothing else; a longer image is
LOAD_RANGE and writes nothing (R156; the fault is the spec's decision D28). -/
def Obligations.LoadRomCopiesTheImage : Prop :=
  ∀ (bytes : List Byte) (s : State),
    (bytes.length ≤ 3584 →
      ∃ t, transact (.loadROM bytes) s = .next t ∧ t = { s with mem := t.mem, response := .ok } ∧
        (∀ (k : Nat) (h : k < bytes.length), t.readByte (0x200 + k) = bytes[k]) ∧
        ∀ a : Nat, a < 0x200 ∨ 0x200 + bytes.length ≤ a → t.readByte a = s.readByte a) ∧
    (3584 < bytes.length →
      transact (.loadROM bytes) s =
        .next { s with
          flt := s.flt ||| 0b1000000#7
          response := .fault ⟨.loadRange, BitVec.ofNat 16 (min bytes.length 0xFFFF)⟩ })

/-- What reset leaves, where the source states the value (R31): pc 0x200, registers, stack slots, timers, framebuffer
and keypad zero, memory zero but for the glyph table. -/
def Obligations.ResetValuesOfTheSource : Prop :=
  let s := State.reset
  s.pc = 0x200 ∧ (∀ r : Reg, s.getV r = 0) ∧ (∀ k : Fin 16, s.stack[k] = 0) ∧ s.dt = 0 ∧ s.st = 0 ∧
    (∀ k : Nat, cellAt s.fb k = false) ∧ (∀ k : Fin 16, s.key[k] = false) ∧ (∀ a : Nat, 0x050 ≤ a → s.readByte a = 0) ∧
    ∀ a : Nat, a < 0x050 → s.readByte a = glyphs.getD a 0

/-- What reset leaves where the spec decides the value (D27, D4: I, sp, REDRAW, FLT; log 12) or the model does
(response, schedule, driver, draws; logs 2 to 4). -/
def Obligations.ResetValuesDecided : Prop :=
  let s := State.reset
  s.index = 0 ∧ s.sp = 0 ∧ s.redraw = false ∧ s.flt = 0 ∧ s.response = .silent ∧ s.schedule = [] ∧
    s.driver = .cycling ∧ s.draws = 0

/-- The Reset transaction puts all state of the core into its reset value, whatever it was, FLT included; the host's
coming transactions and the random source, which are outside the core, go on (R190; that every later Reset equals
construction is D27; log 13). -/
def Obligations.ResetTransactionResetsEverything : Prop :=
  ∀ s : State,
    transact .reset s =
      .next { State.reset with schedule := s.schedule, driver := s.driver, draws := s.draws }

/-! ### The whole machine -/

/-- Every step keeps the invariant, whatever transaction it performs: the memory stays canonical, I stays in the address
space (R16), pc stays at most 0x10FE (R18) and every stack slot stays fetchable (R81). -/
def Obligations.StepKeepsInvariant : Prop :=
  ∀ s t : State, s.Inv → step s = .next t → t.Inv

/-- The invariant holds at reset. -/
def Obligations.ResetMeetsInvariant : Prop := State.reset.Inv

/-- Faults are precise and are exactly those of R170's table: where its condition holds, the instruction changes nothing
but the FLT bit of the kind, and the fault is returned; where it does not, FLT is unchanged and no fault is returned
(R170, R171, R179; codes, info and precision are the spec's decisions D3, D4). -/
def Obligations.FaultsArePreciseAndListed : Prop :=
  ∀ (i : Instr) (s : State),
    (∀ f : FaultInfo, faultCondition i s = some f → exec i s = .next (afterFault f s)) ∧
    (faultCondition i s = none →
      ∃ t, exec i s = .next t ∧ t.flt = s.flt ∧ (t.response = .ok ∨ t.response = .waiting))

/-- No bit of FLT is ever cleared but by Reset: for any step whose transaction, the one issued next, is not Reset (R27, R182; D4, D5). -/
def Obligations.OnlyResetClearsFlt : Prop :=
  ∀ s t : State, s.issue.1 ≠ .reset → step s = .next t → s.flt &&& t.flt = s.flt

/-- pc after every instruction is as R18's table says where the Cycle returns Ok, and unchanged otherwise: a fault or a
key-wait with no key down. -/
def Obligations.PcFollowsTheTable : Prop :=
  ∀ (i : Instr) (s t : State), exec i s = .next t →
    (t.response = .ok → t.pc = pcWhenOk i s) ∧ (t.response ≠ .ok → t.pc = s.pc)

/-- The register frame (R11, R12): a register that is neither an ordinary destination of the instruction nor VF under
one of the six flag-writing instructions keeps its value. -/
def Obligations.RegistersKeptOutsideDestinations : Prop :=
  ∀ (i : Instr) (s t : State) (r : Reg), exec i s = .next t →
    isDest i r = false → (r ≠ 15 ∨ writesFlag i = false) → t.getV r = s.getV r

/-- The memory frame: only Fx33 and Fx55 write memory (R42, R41), and they leave every byte outside I to I + 2, and
outside I to I + x, as it was. -/
def Obligations.MemoryKeptOutsideStores : Prop :=
  ∀ (i : Instr) (s t : State) (a : Nat), exec i s = .next t →
    (∀ x, i = .ldB x → a < s.base ∨ s.base + 2 < a) →
    (∀ x, i = .stRegs x → a < s.base ∨ s.base + x.val < a) →
    t.readByte a = s.readByte a

/-- The stack and its pointer change by no instruction but CALL and RET, and RET changes no slot (R19). -/
def Obligations.StackKeptOutsideCallAndRet : Prop :=
  ∀ (i : Instr) (s t : State), exec i s = .next t →
    ((∀ nnn, i ≠ .call nnn) → t.stack = s.stack) ∧
    ((∀ nnn, i ≠ .call nnn) → (∀ ign, i ≠ .ret ign) → t.sp = s.sp)

/-- The special registers and the devices: I changes only by Annn, Fx1E and Fx29 (R16; that the memory instructions keep
it is the spec's decision D21, log 17); DT only by Fx15, ST only by Fx18 (which opcode reaches which timer is the spec's
general knowledge, D31, log 19); the framebuffer only by 00E0 and Dxyn (R24); no instruction clears REDRAW (R25); no
instruction changes a key flag (R26). Of the model's own fields: draws changes only by Cxnn (log 4), and no instruction
touches schedule and driver (log 3); response, which every instruction writes (log 2), is left out. -/
def Obligations.SpecialStateKeptOutsideItsInstructions : Prop :=
  ∀ (i : Instr) (s t : State), exec i s = .next t →
    ((∀ nnn, i ≠ .ldI nnn) → (∀ x, i ≠ .addI x) → (∀ x, i ≠ .ldF x) → t.index = s.index) ∧
    ((∀ x, i ≠ .ldDTVx x) → t.dt = s.dt) ∧
    ((∀ x, i ≠ .ldSTVx x) → t.st = s.st) ∧
    ((∀ ign, i ≠ .cls ign) → (∀ x y n, i ≠ .drw x y n) → t.fb = s.fb ∧ t.redraw = s.redraw) ∧
    (s.redraw = true → t.redraw = true) ∧
    t.key = s.key ∧
    ((∀ x nn, i ≠ .rnd x nn) → t.draws = s.draws) ∧
    t.schedule = s.schedule ∧ t.driver = s.driver

/-- No instruction reads ST, REDRAW or FLT (R25; that no opcode reads ST is the spec's general knowledge, D31, G7, log 19;
FLT is a register of the spec's own, D4): two states that differ only in them take the same
instruction to states that differ only in them, and its Cycle returns the same. -/
def Obligations.NoInstructionReadsTheHiddenState : Prop :=
  ∀ (i : Instr) (s s' t t' : State), s.visible = s'.visible →
    exec i s = .next t → exec i s' = .next t' →
      t.visible = t'.visible ∧ t.response = t'.response

/-- The core with no program executes no-ops from 0x200 for 1792 Cycles, up to pc = 0x1000, and every further Cycle
raises FETCH_RANGE with 0x1000 (R191). -/
def Obligations.UnloadedCoreRunsNoOpsThenFaults : Prop :=
  ∀ n : Nat,
    (n < 1792 →
      Host.Core.run core (n + 1) State.reset =
        .next { State.reset with pc := BitVec.ofNat 16 (0x200 + 2 * (n + 1)), response := .ok }) ∧
    (1792 ≤ n →
      Host.Core.run core (n + 1) State.reset =
        .next { State.reset with pc := 0x1000, flt := 0b0000001, response := .fault ⟨.fetchRange, 0x1000⟩ })
end

