-- ==== Sys2Proof/Laws/Decode.lean ====
section
/-! SUPPORT. The fields of a word that the encoder built, one lemma per field and format (R61, R71). -/

namespace Sys2Proof

@[simp] theorem toFin_regBits (r : Reg) : (regBits r).toFin = r := rfl

theorem toNat_wordA (top : Nibble) (nnn : Imm12) : (wordA top nnn).toNat = top.toNat * 4096 + nnn.toNat := by
  show (top ++ nnn).toNat = _
  rw [BitVec.toNat_append, ← Nat.shiftLeft_add_eq_or_of_lt nnn.isLt, Nat.shiftLeft_eq]

theorem toNat_nibble_byte (x : Nibble) (nn : Byte) : (x ++ nn : Imm12).toNat = x.toNat * 256 + nn.toNat := by
  show (x ++ nn).toNat = _
  rw [BitVec.toNat_append, ← Nat.shiftLeft_add_eq_or_of_lt nn.isLt, Nat.shiftLeft_eq]

theorem toNat_nibble_nibble (y n : Nibble) : (y ++ n : Byte).toNat = y.toNat * 16 + n.toNat := by
  show (y ++ n).toNat = _
  rw [BitVec.toNat_append, ← Nat.shiftLeft_add_eq_or_of_lt n.isLt, Nat.shiftLeft_eq]

@[simp] theorem fieldTop_wordA (top : Nibble) (nnn : Imm12) : fieldTop (wordA top nnn) = top := by
  apply BitVec.eq_of_toNat_eq
  have := nnn.isLt
  simp only [fieldTop, BitVec.extractLsb'_toNat, toNat_wordA, Nat.shiftRight_eq_div_pow]
  omega

@[simp] theorem fieldNNN_wordA (top : Nibble) (nnn : Imm12) : fieldNNN (wordA top nnn) = nnn := by
  apply BitVec.eq_of_toNat_eq
  have := nnn.isLt
  simp only [fieldNNN, BitVec.extractLsb'_toNat, toNat_wordA, Nat.shiftRight_eq_div_pow]
  omega

/-! ### Format XI and the rows that end in a low byte -/

@[simp] theorem fieldXBits_wordA (top x : Nibble) (nn : Byte) : fieldXBits (wordA top (x ++ nn)) = x := by
  apply BitVec.eq_of_toNat_eq
  have := nn.isLt
  simp only [fieldXBits, BitVec.extractLsb'_toNat, toNat_wordA, toNat_nibble_byte, Nat.shiftRight_eq_div_pow]
  omega

@[simp] theorem fieldNN_wordA (top x : Nibble) (nn : Byte) : fieldNN (wordA top (x ++ nn)) = nn := by
  apply BitVec.eq_of_toNat_eq
  have := nn.isLt
  simp only [fieldNN, BitVec.extractLsb'_toNat, toNat_wordA, toNat_nibble_byte, Nat.shiftRight_eq_div_pow]
  omega

@[simp] theorem fieldTop_wordXI (top : Nibble) (x : Reg) (nn : Byte) : fieldTop (wordXI top x nn) = top :=
  fieldTop_wordA top _

@[simp] theorem fieldX_wordXI (top : Nibble) (x : Reg) (nn : Byte) : fieldX (wordXI top x nn) = x := by
  show (fieldXBits (wordA top (regBits x ++ nn))).toFin = x
  rw [fieldXBits_wordA, toFin_regBits]

@[simp] theorem fieldNN_wordXI (top : Nibble) (x : Reg) (nn : Byte) : fieldNN (wordXI top x nn) = nn :=
  fieldNN_wordA top (regBits x) nn

/-! ### Formats XY and XYN -/

@[simp] theorem fieldTop_wordXYN (top : Nibble) (x y : Reg) (n : Nibble) : fieldTop (wordXYN top x y n) = top :=
  fieldTop_wordXI top x _

@[simp] theorem fieldX_wordXYN (top : Nibble) (x y : Reg) (n : Nibble) : fieldX (wordXYN top x y n) = x :=
  fieldX_wordXI top x _

@[simp] theorem fieldY_wordXYN (top : Nibble) (x y : Reg) (n : Nibble) : fieldY (wordXYN top x y n) = y := by
  have h : (wordXYN top x y n).extractLsb' 4 4 = regBits y := by
    apply BitVec.eq_of_toNat_eq
    have := n.isLt
    have := (regBits y).isLt
    simp only [wordXYN, wordXI, BitVec.extractLsb'_toNat, toNat_wordA, toNat_nibble_byte, toNat_nibble_nibble,
      Nat.shiftRight_eq_div_pow]
    omega
  rw [fieldY, h, toFin_regBits]

@[simp] theorem fieldN_wordXYN (top : Nibble) (x y : Reg) (n : Nibble) : fieldN (wordXYN top x y n) = n := by
  apply BitVec.eq_of_toNat_eq
  have := n.isLt
  simp only [fieldN, wordXYN, wordXI, BitVec.extractLsb'_toNat, toNat_wordA, toNat_nibble_byte, toNat_nibble_nibble,
    Nat.shiftRight_eq_div_pow]
  omega

/-! ### Bytes -/

/-- The bytes of a word put together again are the word (R46). -/
theorem wordOfBytes_bytes (op : Word) : wordOfBytes (op.extractLsb' 8 8) (op.extractLsb' 0 8) = op := by
  apply BitVec.eq_of_toNat_eq
  have := op.isLt
  show (op.extractLsb' 8 8 ++ op.extractLsb' 0 8).toNat = _
  rw [BitVec.toNat_append, ← Nat.shiftLeft_add_eq_or_of_lt (BitVec.isLt _), Nat.shiftLeft_eq]
  simp only [BitVec.extractLsb'_toNat, Nat.shiftRight_eq_div_pow]
  omega

end Sys2Proof
end

