-- ==== Sys2Proof/Laws/Memory.lean ====
section
/-! SUPPORT. Memory: a read after a write, and that every memory operation keeps the canonical form. The read laws hold
of every list, canonical or not. -/

namespace Sys2Proof.Machine

/-! ### Reading after writing -/

theorem Memory.read_put (m : Memory) (a : Nat) (b : Byte) (c : Nat) :
    (Memory.put m a b).read c = if c = a then b else m.read c := by
  induction m with
  | nil => simp [Memory.put, Memory.read, eq_comm]
  | cons e m ih =>
    obtain ⟨a', b'⟩ := e
    simp only [Memory.put]
    split
    · simp [Memory.read, eq_comm]
    · split
      · subst a'
        by_cases h : a = c
        · simp [Memory.read, h]
        · simp [Memory.read, h, Ne.symm h]
      · simp only [Memory.read, ih]
        by_cases h : a' = c
        · have : c ≠ a := by omega
          simp [h, this]
        · simp [h]

theorem Memory.read_forget (m : Memory) (a c : Nat) :
    (Memory.forget m a).read c = if c = a then unlistedByte a else m.read c := by
  induction m with
  | nil =>
    by_cases h : c = a
    · simp [Memory.forget, Memory.read, h]
    · simp [Memory.forget, Memory.read, h]
  | cons e m ih =>
    obtain ⟨a', b'⟩ := e
    simp only [Memory.forget] at ih
    by_cases h : a' = a
    · subst h
      by_cases hc : c = a'
      · simpa [Memory.forget, hc] using ih
      · simp [Memory.forget, ih, Memory.read, hc, Ne.symm hc]
    · by_cases hc : a' = c
      · have : c ≠ a := by omega
        simp [Memory.forget, Memory.read, hc, this]
      · simp [Memory.forget, h, Memory.read, hc, ih]

/-- A read after a write: the byte written at its address, and every other byte as before. -/
theorem Memory.read_write (m : Memory) (a : Nat) (b : Byte) (c : Nat) :
    (Memory.write m a b).read c = if c = a then b else m.read c := by
  unfold Memory.write
  split
  · next h => rw [Memory.read_forget, h]
  · exact Memory.read_put m a b c

/-- A read after a list of bytes was written from `a` on. -/
theorem Memory.read_writeList (bs : List Byte) (m : Memory) (a c : Nat) :
    (Memory.writeList m a bs).read c =
      if a ≤ c ∧ c < a + bs.length then bs.getD (c - a) 0#8 else m.read c := by
  induction bs generalizing m a with
  | nil => simp [Memory.writeList, show ¬(a ≤ c ∧ c < a) by omega]
  | cons b bs ih =>
    rw [Memory.writeList, ih, Memory.read_write]
    by_cases h1 : a + 1 ≤ c ∧ c < a + 1 + bs.length
    · have h2 : a ≤ c ∧ c < a + (b :: bs).length := by simp; omega
      have h3 : c - a = (c - (a + 1)) + 1 := by omega
      rw [if_pos h1, if_pos h2, h3, List.getD_cons_succ]
    · rw [if_neg h1]
      by_cases h4 : c = a
      · subst h4
        simp
      · have h5 : ¬(a ≤ c ∧ c < a + (b :: bs).length) := by simp; omega
        rw [if_neg h4, if_neg h5]

/-! ### The canonical form -/

theorem Memory.risesFrom_cons (lo a : Nat) (b : Byte) (m : Memory) :
    Memory.risesFrom lo ((a, b) :: m) = true ↔
      lo ≤ a ∧ a < 4096 ∧ b ≠ unlistedByte a ∧ Memory.risesFrom (a + 1) m = true := by
  simp [Memory.risesFrom, and_assoc]

theorem Memory.risesFrom_mono {m : Memory} {lo lo' : Nat} (h : Memory.risesFrom lo m = true) (hl : lo' ≤ lo) :
    Memory.risesFrom lo' m = true := by
  cases m with
  | nil => rfl
  | cons e m =>
    obtain ⟨a, b⟩ := e
    rw [Memory.risesFrom_cons] at h ⊢
    exact ⟨by omega, h.2⟩

theorem Memory.risesFrom_put {m : Memory} {lo a : Nat} {b : Byte} (h : Memory.risesFrom lo m = true) (hl : lo ≤ a)
    (ha : a < 4096) (hb : b ≠ unlistedByte a) : Memory.risesFrom lo (Memory.put m a b) = true := by
  induction m generalizing lo with
  | nil => rw [Memory.put, Memory.risesFrom_cons]; exact ⟨hl, ha, hb, rfl⟩
  | cons e m ih =>
    obtain ⟨a', b'⟩ := e
    have h' := (Memory.risesFrom_cons lo a' b' m).1 h
    simp only [Memory.put]
    split
    · next hlt =>
      rw [Memory.risesFrom_cons, Memory.risesFrom_cons]
      exact ⟨hl, ha, hb, by omega, h'.2⟩
    · split
      · next heq =>
        rw [Memory.risesFrom_cons]
        exact ⟨hl, ha, hb, heq ▸ h'.2.2.2⟩
      · next hlt hne =>
        rw [Memory.risesFrom_cons]
        exact ⟨h'.1, h'.2.1, h'.2.2.1, ih h'.2.2.2 (by omega)⟩

theorem Memory.risesFrom_forget {m : Memory} {lo : Nat} (a : Nat) (h : Memory.risesFrom lo m = true) :
    Memory.risesFrom lo (Memory.forget m a) = true := by
  induction m generalizing lo with
  | nil => rfl
  | cons e m ih =>
    obtain ⟨a', b'⟩ := e
    have h' := (Memory.risesFrom_cons lo a' b' m).1 h
    by_cases hc : a' = a
    · have : Memory.forget ((a', b') :: m) a = Memory.forget m a := by simp [Memory.forget, hc]
      rw [this]
      exact Memory.risesFrom_mono (ih h'.2.2.2) (by omega)
    · have : Memory.forget ((a', b') :: m) a = (a', b') :: Memory.forget m a := by simp [Memory.forget, hc]
      rw [this, Memory.risesFrom_cons]
      exact ⟨h'.1, h'.2.1, h'.2.2.1, ih h'.2.2.2⟩

/-- A write inside the memory keeps the canonical form. -/
theorem Memory.wf_write {m : Memory} (a : Nat) (b : Byte) (h : m.wf = true) (ha : a < 4096) :
    (Memory.write m a b).wf = true := by
  unfold Memory.write
  split
  · exact Memory.risesFrom_forget a h
  · next hb => exact Memory.risesFrom_put h (Nat.zero_le a) ha hb

/-- Writing a list of bytes inside the memory keeps the canonical form. -/
theorem Memory.wf_writeList {m : Memory} (bs : List Byte) (a : Nat) (h : m.wf = true)
    (ha : bs = [] ∨ a + bs.length ≤ 4096) : (Memory.writeList m a bs).wf = true := by
  induction bs generalizing m a with
  | nil => exact h
  | cons b bs ih =>
    have hl : a + (bs.length + 1) ≤ 4096 := by simpa using ha
    exact ih (a + 1) (Memory.wf_write a b h (by omega)) (.inr (by omega))

theorem Memory.wf_nil : Memory.wf [] = true := rfl

theorem Memory.read_of_rises {m : Memory} {lo a : Nat} (h : Memory.risesFrom lo m = true) (ha : a < lo) :
    m.read a = unlistedByte a := by
  induction m generalizing lo with
  | nil => rfl
  | cons e m ih =>
    obtain ⟨a', b'⟩ := e
    have h' := (Memory.risesFrom_cons lo a' b' m).1 h
    rw [Memory.read, if_neg (by omega)]
    exact ih h'.2.2.2 (by omega)

/-- Equal memories are equal lists: the canonical form is unique. -/
theorem Memory.eq_of_read_eq {m m' : Memory} {lo lo' : Nat} (h : Memory.risesFrom lo m = true)
    (h' : Memory.risesFrom lo' m' = true) (hr : ∀ a, m.read a = m'.read a) : m = m' := by
  induction m generalizing m' lo lo' with
  | nil =>
    cases m' with
    | nil => rfl
    | cons e m' =>
      obtain ⟨a, b⟩ := e
      have e := (Memory.risesFrom_cons lo' a b m').1 h'
      exact absurd (by simpa [Memory.read] using (hr a).symm) e.2.2.1
  | cons e m ih =>
    obtain ⟨a, b⟩ := e
    have e := (Memory.risesFrom_cons lo a b m).1 h
    cases m' with
    | nil => exact absurd (by simpa [Memory.read] using hr a) e.2.2.1
    | cons e' m' =>
      obtain ⟨a', b'⟩ := e'
      have e' := (Memory.risesFrom_cons lo' a' b' m').1 h'
      have haa : a = a' := by
        rcases Nat.lt_trichotomy a a' with hlt | heq | hgt
        · have := hr a
          rw [Memory.read, if_pos rfl, Memory.read, if_neg (by omega),
            Memory.read_of_rises e'.2.2.2 (by omega)] at this
          exact absurd this e.2.2.1
        · exact heq
        · have := hr a'
          rw [Memory.read, if_neg (by omega), Memory.read_of_rises e.2.2.2 (by omega), Memory.read,
            if_pos rfl] at this
          exact absurd this.symm e'.2.2.1
      subst haa
      have hb : b = b' := by simpa [Memory.read] using hr a
      subst hb
      congr 1
      refine ih e.2.2.2 e'.2.2.2 fun c => ?_
      have hc := hr c
      by_cases hca : a = c
      · subst hca
        rw [Memory.read_of_rises e.2.2.2 (by omega), Memory.read_of_rises e'.2.2.2 (by omega)]
      · simpa [Memory.read, hca] using hc

end Sys2Proof.Machine
end

