-- ==== Sys2Proof/Laws/State.lean ====
section
/-! SUPPORT. What each update of State does to each field: one lemma per field per update, so that no proof unfolds a
record update; and what `getV` and `readByte` read after each. -/

namespace Sys2Proof.Machine

variable (s : State)

/-! ### setV -/

@[simp] theorem State.setV_v (r : Reg) (b : Byte) : (s.setV r b).v = s.v.set r.val b := rfl
@[simp] theorem State.setV_index (r : Reg) (b : Byte) : (s.setV r b).index = s.index := rfl
@[simp] theorem State.setV_pc (r : Reg) (b : Byte) : (s.setV r b).pc = s.pc := rfl
@[simp] theorem State.setV_stack (r : Reg) (b : Byte) : (s.setV r b).stack = s.stack := rfl
@[simp] theorem State.setV_sp (r : Reg) (b : Byte) : (s.setV r b).sp = s.sp := rfl
@[simp] theorem State.setV_dt (r : Reg) (b : Byte) : (s.setV r b).dt = s.dt := rfl
@[simp] theorem State.setV_st (r : Reg) (b : Byte) : (s.setV r b).st = s.st := rfl
@[simp] theorem State.setV_mem (r : Reg) (b : Byte) : (s.setV r b).mem = s.mem := rfl
@[simp] theorem State.setV_fb (r : Reg) (b : Byte) : (s.setV r b).fb = s.fb := rfl
@[simp] theorem State.setV_redraw (r : Reg) (b : Byte) : (s.setV r b).redraw = s.redraw := rfl
@[simp] theorem State.setV_key (r : Reg) (b : Byte) : (s.setV r b).key = s.key := rfl
@[simp] theorem State.setV_flt (r : Reg) (b : Byte) : (s.setV r b).flt = s.flt := rfl
@[simp] theorem State.setV_response (r : Reg) (b : Byte) : (s.setV r b).response = s.response := rfl
@[simp] theorem State.setV_schedule (r : Reg) (b : Byte) : (s.setV r b).schedule = s.schedule := rfl
@[simp] theorem State.setV_driver (r : Reg) (b : Byte) : (s.setV r b).driver = s.driver := rfl
@[simp] theorem State.setV_draws (r : Reg) (b : Byte) : (s.setV r b).draws = s.draws := rfl
@[simp] theorem State.readByte_setV (r : Reg) (b : Byte) (a : Nat) : (s.setV r b).readByte a = s.readByte a := rfl

/-! ### setFlag -/

@[simp] theorem State.setFlag_v (c : Bool) : (s.setFlag c).v = s.v.set 15 (flagByte c) := rfl
@[simp] theorem State.setFlag_index (c : Bool) : (s.setFlag c).index = s.index := rfl
@[simp] theorem State.setFlag_pc (c : Bool) : (s.setFlag c).pc = s.pc := rfl
@[simp] theorem State.setFlag_stack (c : Bool) : (s.setFlag c).stack = s.stack := rfl
@[simp] theorem State.setFlag_sp (c : Bool) : (s.setFlag c).sp = s.sp := rfl
@[simp] theorem State.setFlag_dt (c : Bool) : (s.setFlag c).dt = s.dt := rfl
@[simp] theorem State.setFlag_st (c : Bool) : (s.setFlag c).st = s.st := rfl
@[simp] theorem State.setFlag_mem (c : Bool) : (s.setFlag c).mem = s.mem := rfl
@[simp] theorem State.setFlag_fb (c : Bool) : (s.setFlag c).fb = s.fb := rfl
@[simp] theorem State.setFlag_redraw (c : Bool) : (s.setFlag c).redraw = s.redraw := rfl
@[simp] theorem State.setFlag_key (c : Bool) : (s.setFlag c).key = s.key := rfl
@[simp] theorem State.setFlag_flt (c : Bool) : (s.setFlag c).flt = s.flt := rfl
@[simp] theorem State.setFlag_response (c : Bool) : (s.setFlag c).response = s.response := rfl
@[simp] theorem State.setFlag_schedule (c : Bool) : (s.setFlag c).schedule = s.schedule := rfl
@[simp] theorem State.setFlag_driver (c : Bool) : (s.setFlag c).driver = s.driver := rfl
@[simp] theorem State.setFlag_draws (c : Bool) : (s.setFlag c).draws = s.draws := rfl
@[simp] theorem State.readByte_setFlag (c : Bool) (a : Nat) : (s.setFlag c).readByte a = s.readByte a := rfl

/-! ### loadRegs -/

@[simp] theorem State.loadRegs_v (bs : List Byte) : (s.loadRegs bs).v = Vector.ofFn fun r : Reg => bs.getD r.val (s.getV r) := rfl
@[simp] theorem State.loadRegs_index (bs : List Byte) : (s.loadRegs bs).index = s.index := rfl
@[simp] theorem State.loadRegs_pc (bs : List Byte) : (s.loadRegs bs).pc = s.pc := rfl
@[simp] theorem State.loadRegs_stack (bs : List Byte) : (s.loadRegs bs).stack = s.stack := rfl
@[simp] theorem State.loadRegs_sp (bs : List Byte) : (s.loadRegs bs).sp = s.sp := rfl
@[simp] theorem State.loadRegs_dt (bs : List Byte) : (s.loadRegs bs).dt = s.dt := rfl
@[simp] theorem State.loadRegs_st (bs : List Byte) : (s.loadRegs bs).st = s.st := rfl
@[simp] theorem State.loadRegs_mem (bs : List Byte) : (s.loadRegs bs).mem = s.mem := rfl
@[simp] theorem State.loadRegs_fb (bs : List Byte) : (s.loadRegs bs).fb = s.fb := rfl
@[simp] theorem State.loadRegs_redraw (bs : List Byte) : (s.loadRegs bs).redraw = s.redraw := rfl
@[simp] theorem State.loadRegs_key (bs : List Byte) : (s.loadRegs bs).key = s.key := rfl
@[simp] theorem State.loadRegs_flt (bs : List Byte) : (s.loadRegs bs).flt = s.flt := rfl
@[simp] theorem State.loadRegs_response (bs : List Byte) : (s.loadRegs bs).response = s.response := rfl
@[simp] theorem State.loadRegs_schedule (bs : List Byte) : (s.loadRegs bs).schedule = s.schedule := rfl
@[simp] theorem State.loadRegs_driver (bs : List Byte) : (s.loadRegs bs).driver = s.driver := rfl
@[simp] theorem State.loadRegs_draws (bs : List Byte) : (s.loadRegs bs).draws = s.draws := rfl
@[simp] theorem State.readByte_loadRegs (bs : List Byte) (a : Nat) : (s.loadRegs bs).readByte a = s.readByte a := rfl

/-! ### setIndex -/

@[simp] theorem State.setIndex_v (w : Word) : (s.setIndex w).v = s.v := rfl
@[simp] theorem State.setIndex_index (w : Word) : (s.setIndex w).index = w := rfl
@[simp] theorem State.setIndex_pc (w : Word) : (s.setIndex w).pc = s.pc := rfl
@[simp] theorem State.setIndex_stack (w : Word) : (s.setIndex w).stack = s.stack := rfl
@[simp] theorem State.setIndex_sp (w : Word) : (s.setIndex w).sp = s.sp := rfl
@[simp] theorem State.setIndex_dt (w : Word) : (s.setIndex w).dt = s.dt := rfl
@[simp] theorem State.setIndex_st (w : Word) : (s.setIndex w).st = s.st := rfl
@[simp] theorem State.setIndex_mem (w : Word) : (s.setIndex w).mem = s.mem := rfl
@[simp] theorem State.setIndex_fb (w : Word) : (s.setIndex w).fb = s.fb := rfl
@[simp] theorem State.setIndex_redraw (w : Word) : (s.setIndex w).redraw = s.redraw := rfl
@[simp] theorem State.setIndex_key (w : Word) : (s.setIndex w).key = s.key := rfl
@[simp] theorem State.setIndex_flt (w : Word) : (s.setIndex w).flt = s.flt := rfl
@[simp] theorem State.setIndex_response (w : Word) : (s.setIndex w).response = s.response := rfl
@[simp] theorem State.setIndex_schedule (w : Word) : (s.setIndex w).schedule = s.schedule := rfl
@[simp] theorem State.setIndex_driver (w : Word) : (s.setIndex w).driver = s.driver := rfl
@[simp] theorem State.setIndex_draws (w : Word) : (s.setIndex w).draws = s.draws := rfl
@[simp] theorem State.getV_setIndex (w : Word) (r : Reg) : (s.setIndex w).getV r = s.getV r := rfl
@[simp] theorem State.readByte_setIndex (w : Word) (a : Nat) : (s.setIndex w).readByte a = s.readByte a := rfl

/-! ### setPc -/

@[simp] theorem State.setPc_v (w : Word) : (s.setPc w).v = s.v := rfl
@[simp] theorem State.setPc_index (w : Word) : (s.setPc w).index = s.index := rfl
@[simp] theorem State.setPc_pc (w : Word) : (s.setPc w).pc = w := rfl
@[simp] theorem State.setPc_stack (w : Word) : (s.setPc w).stack = s.stack := rfl
@[simp] theorem State.setPc_sp (w : Word) : (s.setPc w).sp = s.sp := rfl
@[simp] theorem State.setPc_dt (w : Word) : (s.setPc w).dt = s.dt := rfl
@[simp] theorem State.setPc_st (w : Word) : (s.setPc w).st = s.st := rfl
@[simp] theorem State.setPc_mem (w : Word) : (s.setPc w).mem = s.mem := rfl
@[simp] theorem State.setPc_fb (w : Word) : (s.setPc w).fb = s.fb := rfl
@[simp] theorem State.setPc_redraw (w : Word) : (s.setPc w).redraw = s.redraw := rfl
@[simp] theorem State.setPc_key (w : Word) : (s.setPc w).key = s.key := rfl
@[simp] theorem State.setPc_flt (w : Word) : (s.setPc w).flt = s.flt := rfl
@[simp] theorem State.setPc_response (w : Word) : (s.setPc w).response = s.response := rfl
@[simp] theorem State.setPc_schedule (w : Word) : (s.setPc w).schedule = s.schedule := rfl
@[simp] theorem State.setPc_driver (w : Word) : (s.setPc w).driver = s.driver := rfl
@[simp] theorem State.setPc_draws (w : Word) : (s.setPc w).draws = s.draws := rfl
@[simp] theorem State.getV_setPc (w : Word) (r : Reg) : (s.setPc w).getV r = s.getV r := rfl
@[simp] theorem State.readByte_setPc (w : Word) (a : Nat) : (s.setPc w).readByte a = s.readByte a := rfl

/-! ### advance -/

@[simp] theorem State.advance_v : (s.advance).v = s.v := rfl
@[simp] theorem State.advance_index : (s.advance).index = s.index := rfl
@[simp] theorem State.advance_pc : (s.advance).pc = s.pc + 2#16 := rfl
@[simp] theorem State.advance_stack : (s.advance).stack = s.stack := rfl
@[simp] theorem State.advance_sp : (s.advance).sp = s.sp := rfl
@[simp] theorem State.advance_dt : (s.advance).dt = s.dt := rfl
@[simp] theorem State.advance_st : (s.advance).st = s.st := rfl
@[simp] theorem State.advance_mem : (s.advance).mem = s.mem := rfl
@[simp] theorem State.advance_fb : (s.advance).fb = s.fb := rfl
@[simp] theorem State.advance_redraw : (s.advance).redraw = s.redraw := rfl
@[simp] theorem State.advance_key : (s.advance).key = s.key := rfl
@[simp] theorem State.advance_flt : (s.advance).flt = s.flt := rfl
@[simp] theorem State.advance_response : (s.advance).response = s.response := rfl
@[simp] theorem State.advance_schedule : (s.advance).schedule = s.schedule := rfl
@[simp] theorem State.advance_driver : (s.advance).driver = s.driver := rfl
@[simp] theorem State.advance_draws : (s.advance).draws = s.draws := rfl
@[simp] theorem State.getV_advance (r : Reg) : (s.advance).getV r = s.getV r := rfl
@[simp] theorem State.readByte_advance (a : Nat) : (s.advance).readByte a = s.readByte a := rfl

/-! ### skipOne -/

@[simp] theorem State.skipOne_v : (s.skipOne).v = s.v := rfl
@[simp] theorem State.skipOne_index : (s.skipOne).index = s.index := rfl
@[simp] theorem State.skipOne_pc : (s.skipOne).pc = s.pc + 4#16 := rfl
@[simp] theorem State.skipOne_stack : (s.skipOne).stack = s.stack := rfl
@[simp] theorem State.skipOne_sp : (s.skipOne).sp = s.sp := rfl
@[simp] theorem State.skipOne_dt : (s.skipOne).dt = s.dt := rfl
@[simp] theorem State.skipOne_st : (s.skipOne).st = s.st := rfl
@[simp] theorem State.skipOne_mem : (s.skipOne).mem = s.mem := rfl
@[simp] theorem State.skipOne_fb : (s.skipOne).fb = s.fb := rfl
@[simp] theorem State.skipOne_redraw : (s.skipOne).redraw = s.redraw := rfl
@[simp] theorem State.skipOne_key : (s.skipOne).key = s.key := rfl
@[simp] theorem State.skipOne_flt : (s.skipOne).flt = s.flt := rfl
@[simp] theorem State.skipOne_response : (s.skipOne).response = s.response := rfl
@[simp] theorem State.skipOne_schedule : (s.skipOne).schedule = s.schedule := rfl
@[simp] theorem State.skipOne_driver : (s.skipOne).driver = s.driver := rfl
@[simp] theorem State.skipOne_draws : (s.skipOne).draws = s.draws := rfl
@[simp] theorem State.getV_skipOne (r : Reg) : (s.skipOne).getV r = s.getV r := rfl
@[simp] theorem State.readByte_skipOne (a : Nat) : (s.skipOne).readByte a = s.readByte a := rfl

/-! ### setDt -/

@[simp] theorem State.setDt_v (b : Byte) : (s.setDt b).v = s.v := rfl
@[simp] theorem State.setDt_index (b : Byte) : (s.setDt b).index = s.index := rfl
@[simp] theorem State.setDt_pc (b : Byte) : (s.setDt b).pc = s.pc := rfl
@[simp] theorem State.setDt_stack (b : Byte) : (s.setDt b).stack = s.stack := rfl
@[simp] theorem State.setDt_sp (b : Byte) : (s.setDt b).sp = s.sp := rfl
@[simp] theorem State.setDt_dt (b : Byte) : (s.setDt b).dt = b := rfl
@[simp] theorem State.setDt_st (b : Byte) : (s.setDt b).st = s.st := rfl
@[simp] theorem State.setDt_mem (b : Byte) : (s.setDt b).mem = s.mem := rfl
@[simp] theorem State.setDt_fb (b : Byte) : (s.setDt b).fb = s.fb := rfl
@[simp] theorem State.setDt_redraw (b : Byte) : (s.setDt b).redraw = s.redraw := rfl
@[simp] theorem State.setDt_key (b : Byte) : (s.setDt b).key = s.key := rfl
@[simp] theorem State.setDt_flt (b : Byte) : (s.setDt b).flt = s.flt := rfl
@[simp] theorem State.setDt_response (b : Byte) : (s.setDt b).response = s.response := rfl
@[simp] theorem State.setDt_schedule (b : Byte) : (s.setDt b).schedule = s.schedule := rfl
@[simp] theorem State.setDt_driver (b : Byte) : (s.setDt b).driver = s.driver := rfl
@[simp] theorem State.setDt_draws (b : Byte) : (s.setDt b).draws = s.draws := rfl
@[simp] theorem State.getV_setDt (b : Byte) (r : Reg) : (s.setDt b).getV r = s.getV r := rfl
@[simp] theorem State.readByte_setDt (b : Byte) (a : Nat) : (s.setDt b).readByte a = s.readByte a := rfl

/-! ### setSt -/

@[simp] theorem State.setSt_v (b : Byte) : (s.setSt b).v = s.v := rfl
@[simp] theorem State.setSt_index (b : Byte) : (s.setSt b).index = s.index := rfl
@[simp] theorem State.setSt_pc (b : Byte) : (s.setSt b).pc = s.pc := rfl
@[simp] theorem State.setSt_stack (b : Byte) : (s.setSt b).stack = s.stack := rfl
@[simp] theorem State.setSt_sp (b : Byte) : (s.setSt b).sp = s.sp := rfl
@[simp] theorem State.setSt_dt (b : Byte) : (s.setSt b).dt = s.dt := rfl
@[simp] theorem State.setSt_st (b : Byte) : (s.setSt b).st = b := rfl
@[simp] theorem State.setSt_mem (b : Byte) : (s.setSt b).mem = s.mem := rfl
@[simp] theorem State.setSt_fb (b : Byte) : (s.setSt b).fb = s.fb := rfl
@[simp] theorem State.setSt_redraw (b : Byte) : (s.setSt b).redraw = s.redraw := rfl
@[simp] theorem State.setSt_key (b : Byte) : (s.setSt b).key = s.key := rfl
@[simp] theorem State.setSt_flt (b : Byte) : (s.setSt b).flt = s.flt := rfl
@[simp] theorem State.setSt_response (b : Byte) : (s.setSt b).response = s.response := rfl
@[simp] theorem State.setSt_schedule (b : Byte) : (s.setSt b).schedule = s.schedule := rfl
@[simp] theorem State.setSt_driver (b : Byte) : (s.setSt b).driver = s.driver := rfl
@[simp] theorem State.setSt_draws (b : Byte) : (s.setSt b).draws = s.draws := rfl
@[simp] theorem State.getV_setSt (b : Byte) (r : Reg) : (s.setSt b).getV r = s.getV r := rfl
@[simp] theorem State.readByte_setSt (b : Byte) (a : Nat) : (s.setSt b).readByte a = s.readByte a := rfl

/-! ### setMem -/

@[simp] theorem State.setMem_v (m : Memory) : (s.setMem m).v = s.v := rfl
@[simp] theorem State.setMem_index (m : Memory) : (s.setMem m).index = s.index := rfl
@[simp] theorem State.setMem_pc (m : Memory) : (s.setMem m).pc = s.pc := rfl
@[simp] theorem State.setMem_stack (m : Memory) : (s.setMem m).stack = s.stack := rfl
@[simp] theorem State.setMem_sp (m : Memory) : (s.setMem m).sp = s.sp := rfl
@[simp] theorem State.setMem_dt (m : Memory) : (s.setMem m).dt = s.dt := rfl
@[simp] theorem State.setMem_st (m : Memory) : (s.setMem m).st = s.st := rfl
@[simp] theorem State.setMem_mem (m : Memory) : (s.setMem m).mem = m := rfl
@[simp] theorem State.setMem_fb (m : Memory) : (s.setMem m).fb = s.fb := rfl
@[simp] theorem State.setMem_redraw (m : Memory) : (s.setMem m).redraw = s.redraw := rfl
@[simp] theorem State.setMem_key (m : Memory) : (s.setMem m).key = s.key := rfl
@[simp] theorem State.setMem_flt (m : Memory) : (s.setMem m).flt = s.flt := rfl
@[simp] theorem State.setMem_response (m : Memory) : (s.setMem m).response = s.response := rfl
@[simp] theorem State.setMem_schedule (m : Memory) : (s.setMem m).schedule = s.schedule := rfl
@[simp] theorem State.setMem_driver (m : Memory) : (s.setMem m).driver = s.driver := rfl
@[simp] theorem State.setMem_draws (m : Memory) : (s.setMem m).draws = s.draws := rfl
@[simp] theorem State.getV_setMem (m : Memory) (r : Reg) : (s.setMem m).getV r = s.getV r := rfl

/-! ### setFb -/

@[simp] theorem State.setFb_v (f : FrameBuffer) : (s.setFb f).v = s.v := rfl
@[simp] theorem State.setFb_index (f : FrameBuffer) : (s.setFb f).index = s.index := rfl
@[simp] theorem State.setFb_pc (f : FrameBuffer) : (s.setFb f).pc = s.pc := rfl
@[simp] theorem State.setFb_stack (f : FrameBuffer) : (s.setFb f).stack = s.stack := rfl
@[simp] theorem State.setFb_sp (f : FrameBuffer) : (s.setFb f).sp = s.sp := rfl
@[simp] theorem State.setFb_dt (f : FrameBuffer) : (s.setFb f).dt = s.dt := rfl
@[simp] theorem State.setFb_st (f : FrameBuffer) : (s.setFb f).st = s.st := rfl
@[simp] theorem State.setFb_mem (f : FrameBuffer) : (s.setFb f).mem = s.mem := rfl
@[simp] theorem State.setFb_fb (f : FrameBuffer) : (s.setFb f).fb = f := rfl
@[simp] theorem State.setFb_redraw (f : FrameBuffer) : (s.setFb f).redraw = s.redraw := rfl
@[simp] theorem State.setFb_key (f : FrameBuffer) : (s.setFb f).key = s.key := rfl
@[simp] theorem State.setFb_flt (f : FrameBuffer) : (s.setFb f).flt = s.flt := rfl
@[simp] theorem State.setFb_response (f : FrameBuffer) : (s.setFb f).response = s.response := rfl
@[simp] theorem State.setFb_schedule (f : FrameBuffer) : (s.setFb f).schedule = s.schedule := rfl
@[simp] theorem State.setFb_driver (f : FrameBuffer) : (s.setFb f).driver = s.driver := rfl
@[simp] theorem State.setFb_draws (f : FrameBuffer) : (s.setFb f).draws = s.draws := rfl
@[simp] theorem State.getV_setFb (f : FrameBuffer) (r : Reg) : (s.setFb f).getV r = s.getV r := rfl
@[simp] theorem State.readByte_setFb (f : FrameBuffer) (a : Nat) : (s.setFb f).readByte a = s.readByte a := rfl

/-! ### setRedraw -/

@[simp] theorem State.setRedraw_v (b : Bool) : (s.setRedraw b).v = s.v := rfl
@[simp] theorem State.setRedraw_index (b : Bool) : (s.setRedraw b).index = s.index := rfl
@[simp] theorem State.setRedraw_pc (b : Bool) : (s.setRedraw b).pc = s.pc := rfl
@[simp] theorem State.setRedraw_stack (b : Bool) : (s.setRedraw b).stack = s.stack := rfl
@[simp] theorem State.setRedraw_sp (b : Bool) : (s.setRedraw b).sp = s.sp := rfl
@[simp] theorem State.setRedraw_dt (b : Bool) : (s.setRedraw b).dt = s.dt := rfl
@[simp] theorem State.setRedraw_st (b : Bool) : (s.setRedraw b).st = s.st := rfl
@[simp] theorem State.setRedraw_mem (b : Bool) : (s.setRedraw b).mem = s.mem := rfl
@[simp] theorem State.setRedraw_fb (b : Bool) : (s.setRedraw b).fb = s.fb := rfl
@[simp] theorem State.setRedraw_redraw (b : Bool) : (s.setRedraw b).redraw = b := rfl
@[simp] theorem State.setRedraw_key (b : Bool) : (s.setRedraw b).key = s.key := rfl
@[simp] theorem State.setRedraw_flt (b : Bool) : (s.setRedraw b).flt = s.flt := rfl
@[simp] theorem State.setRedraw_response (b : Bool) : (s.setRedraw b).response = s.response := rfl
@[simp] theorem State.setRedraw_schedule (b : Bool) : (s.setRedraw b).schedule = s.schedule := rfl
@[simp] theorem State.setRedraw_driver (b : Bool) : (s.setRedraw b).driver = s.driver := rfl
@[simp] theorem State.setRedraw_draws (b : Bool) : (s.setRedraw b).draws = s.draws := rfl
@[simp] theorem State.getV_setRedraw (b : Bool) (r : Reg) : (s.setRedraw b).getV r = s.getV r := rfl
@[simp] theorem State.readByte_setRedraw (b : Bool) (a : Nat) : (s.setRedraw b).readByte a = s.readByte a := rfl

/-! ### setFlt -/

@[simp] theorem State.setFlt_v (k : FaultKind) : (s.setFlt k).v = s.v := rfl
@[simp] theorem State.setFlt_index (k : FaultKind) : (s.setFlt k).index = s.index := rfl
@[simp] theorem State.setFlt_pc (k : FaultKind) : (s.setFlt k).pc = s.pc := rfl
@[simp] theorem State.setFlt_stack (k : FaultKind) : (s.setFlt k).stack = s.stack := rfl
@[simp] theorem State.setFlt_sp (k : FaultKind) : (s.setFlt k).sp = s.sp := rfl
@[simp] theorem State.setFlt_dt (k : FaultKind) : (s.setFlt k).dt = s.dt := rfl
@[simp] theorem State.setFlt_st (k : FaultKind) : (s.setFlt k).st = s.st := rfl
@[simp] theorem State.setFlt_mem (k : FaultKind) : (s.setFlt k).mem = s.mem := rfl
@[simp] theorem State.setFlt_fb (k : FaultKind) : (s.setFlt k).fb = s.fb := rfl
@[simp] theorem State.setFlt_redraw (k : FaultKind) : (s.setFlt k).redraw = s.redraw := rfl
@[simp] theorem State.setFlt_key (k : FaultKind) : (s.setFlt k).key = s.key := rfl
@[simp] theorem State.setFlt_flt (k : FaultKind) : (s.setFlt k).flt = s.flt ||| BitVec.twoPow 7 k.bit := rfl
@[simp] theorem State.setFlt_response (k : FaultKind) : (s.setFlt k).response = s.response := rfl
@[simp] theorem State.setFlt_schedule (k : FaultKind) : (s.setFlt k).schedule = s.schedule := rfl
@[simp] theorem State.setFlt_driver (k : FaultKind) : (s.setFlt k).driver = s.driver := rfl
@[simp] theorem State.setFlt_draws (k : FaultKind) : (s.setFlt k).draws = s.draws := rfl
@[simp] theorem State.getV_setFlt (k : FaultKind) (r : Reg) : (s.setFlt k).getV r = s.getV r := rfl
@[simp] theorem State.readByte_setFlt (k : FaultKind) (a : Nat) : (s.setFlt k).readByte a = s.readByte a := rfl

/-! ### respond -/

@[simp] theorem State.respond_v (r : Response) : (s.respond r).v = s.v := rfl
@[simp] theorem State.respond_index (r : Response) : (s.respond r).index = s.index := rfl
@[simp] theorem State.respond_pc (r : Response) : (s.respond r).pc = s.pc := rfl
@[simp] theorem State.respond_stack (r : Response) : (s.respond r).stack = s.stack := rfl
@[simp] theorem State.respond_sp (r : Response) : (s.respond r).sp = s.sp := rfl
@[simp] theorem State.respond_dt (r : Response) : (s.respond r).dt = s.dt := rfl
@[simp] theorem State.respond_st (r : Response) : (s.respond r).st = s.st := rfl
@[simp] theorem State.respond_mem (r : Response) : (s.respond r).mem = s.mem := rfl
@[simp] theorem State.respond_fb (r : Response) : (s.respond r).fb = s.fb := rfl
@[simp] theorem State.respond_redraw (r : Response) : (s.respond r).redraw = s.redraw := rfl
@[simp] theorem State.respond_key (r : Response) : (s.respond r).key = s.key := rfl
@[simp] theorem State.respond_flt (r : Response) : (s.respond r).flt = s.flt := rfl
@[simp] theorem State.respond_response (r : Response) : (s.respond r).response = r := rfl
@[simp] theorem State.respond_schedule (r : Response) : (s.respond r).schedule = s.schedule := rfl
@[simp] theorem State.respond_driver (r : Response) : (s.respond r).driver = s.driver := rfl
@[simp] theorem State.respond_draws (r : Response) : (s.respond r).draws = s.draws := rfl
@[simp] theorem State.getV_respond (q : Response) (r : Reg) : (s.respond q).getV r = s.getV r := rfl
@[simp] theorem State.readByte_respond (r : Response) (a : Nat) : (s.respond r).readByte a = s.readByte a := rfl

/-! ### countDraw -/

@[simp] theorem State.countDraw_v : (s.countDraw).v = s.v := rfl
@[simp] theorem State.countDraw_index : (s.countDraw).index = s.index := rfl
@[simp] theorem State.countDraw_pc : (s.countDraw).pc = s.pc := rfl
@[simp] theorem State.countDraw_stack : (s.countDraw).stack = s.stack := rfl
@[simp] theorem State.countDraw_sp : (s.countDraw).sp = s.sp := rfl
@[simp] theorem State.countDraw_dt : (s.countDraw).dt = s.dt := rfl
@[simp] theorem State.countDraw_st : (s.countDraw).st = s.st := rfl
@[simp] theorem State.countDraw_mem : (s.countDraw).mem = s.mem := rfl
@[simp] theorem State.countDraw_fb : (s.countDraw).fb = s.fb := rfl
@[simp] theorem State.countDraw_redraw : (s.countDraw).redraw = s.redraw := rfl
@[simp] theorem State.countDraw_key : (s.countDraw).key = s.key := rfl
@[simp] theorem State.countDraw_flt : (s.countDraw).flt = s.flt := rfl
@[simp] theorem State.countDraw_response : (s.countDraw).response = s.response := rfl
@[simp] theorem State.countDraw_schedule : (s.countDraw).schedule = s.schedule := rfl
@[simp] theorem State.countDraw_driver : (s.countDraw).driver = s.driver := rfl
@[simp] theorem State.countDraw_draws : (s.countDraw).draws = s.draws + 1 := rfl
@[simp] theorem State.getV_countDraw (r : Reg) : (s.countDraw).getV r = s.getV r := rfl
@[simp] theorem State.readByte_countDraw (a : Nat) : (s.countDraw).readByte a = s.readByte a := rfl

/-! ### setKey -/

@[simp] theorem State.setKey_v (k : Nat) (p : Bool) : (s.setKey k p).v = s.v := by
  unfold State.setKey; split <;> rfl
@[simp] theorem State.setKey_index (k : Nat) (p : Bool) : (s.setKey k p).index = s.index := by
  unfold State.setKey; split <;> rfl
@[simp] theorem State.setKey_pc (k : Nat) (p : Bool) : (s.setKey k p).pc = s.pc := by
  unfold State.setKey; split <;> rfl
@[simp] theorem State.setKey_stack (k : Nat) (p : Bool) : (s.setKey k p).stack = s.stack := by
  unfold State.setKey; split <;> rfl
@[simp] theorem State.setKey_sp (k : Nat) (p : Bool) : (s.setKey k p).sp = s.sp := by
  unfold State.setKey; split <;> rfl
@[simp] theorem State.setKey_dt (k : Nat) (p : Bool) : (s.setKey k p).dt = s.dt := by
  unfold State.setKey; split <;> rfl
@[simp] theorem State.setKey_st (k : Nat) (p : Bool) : (s.setKey k p).st = s.st := by
  unfold State.setKey; split <;> rfl
@[simp] theorem State.setKey_mem (k : Nat) (p : Bool) : (s.setKey k p).mem = s.mem := by
  unfold State.setKey; split <;> rfl
@[simp] theorem State.setKey_fb (k : Nat) (p : Bool) : (s.setKey k p).fb = s.fb := by
  unfold State.setKey; split <;> rfl
@[simp] theorem State.setKey_redraw (k : Nat) (p : Bool) : (s.setKey k p).redraw = s.redraw := by
  unfold State.setKey; split <;> rfl
@[simp] theorem State.setKey_flt (k : Nat) (p : Bool) : (s.setKey k p).flt = s.flt := by
  unfold State.setKey; split <;> rfl
@[simp] theorem State.setKey_response (k : Nat) (p : Bool) : (s.setKey k p).response = s.response := by
  unfold State.setKey; split <;> rfl
@[simp] theorem State.setKey_schedule (k : Nat) (p : Bool) : (s.setKey k p).schedule = s.schedule := by
  unfold State.setKey; split <;> rfl
@[simp] theorem State.setKey_driver (k : Nat) (p : Bool) : (s.setKey k p).driver = s.driver := by
  unfold State.setKey; split <;> rfl
@[simp] theorem State.setKey_draws (k : Nat) (p : Bool) : (s.setKey k p).draws = s.draws := by
  unfold State.setKey; split <;> rfl
theorem State.setKey_key (k : Nat) (p : Bool) (h : k < 16) : (s.setKey k p).key = s.key.set k p := by
  simp [State.setKey, h]

theorem State.setKey_of_not_lt (k : Nat) (p : Bool) (h : ¬ k < 16) : s.setKey k p = s := by
  simp [State.setKey, h]

/-! ### Reading a register after it was written -/

@[simp] theorem State.getV_setV (r r' : Reg) (b : Byte) :
    (s.setV r b).getV r' = if r' = r then b else s.getV r' := by
  simp only [State.getV, State.setV, Vector.getElem_set, Fin.ext_iff, eq_comm]

@[simp] theorem State.getV_setFlag (c : Bool) (r : Reg) :
    (s.setFlag c).getV r = if r = vf then flagByte c else s.getV r :=
  s.getV_setV vf r (flagByte c)

@[simp] theorem State.getV_loadRegs (bs : List Byte) (r : Reg) :
    (s.loadRegs bs).getV r = bs.getD r.val (s.getV r) := by
  simp [State.getV, State.loadRegs]

@[simp] theorem State.readByte_setMem (m : Memory) (a : Nat) : (s.setMem m).readByte a = m.read a := rfl

end Sys2Proof.Machine
end

