-- ==== Sys2Proof/Laws/Ops.lean ====
section
/-! SUPPORT. One lemma per shared operation that says everything it can do; cite these instead of unfolding it. -/

namespace Sys2Proof.Machine

/-! ### How a transaction ends -/

theorem complete_eq (s : State) : complete s = .next { s with response := .ok } := rfl

theorem completeNext_eq (s : State) : completeNext s = .next { s with pc := s.pc + 2#16, response := .ok } := rfl

theorem completeSkipIf_eq (c : Bool) (s : State) :
    completeSkipIf c s =
      .next { s with pc := if c = true then s.pc + 4#16 else s.pc + 2#16, response := .ok } := by
  cases c <;> rfl

/-! ### Faults -/

theorem raise_eq (f : FaultInfo) (s : State) :
    raise f s = .next { s with flt := s.flt ||| BitVec.twoPow 7 f.kind.bit, response := .fault f } := rfl

/-- Raising a fault answers exactly one next state. -/
theorem raise_eq_next {f : FaultInfo} {s t : State} (h : raise f s = .next t) :
    t = (s.setFlt f.kind).respond (.fault f) := by
  injection h with h
  exact h.symm

@[simp] theorem orRaise_ok {α : Type} (a : α) (s : State) (k : α → Out) : orRaise (.ok a) s k = k a := rfl

@[simp] theorem orRaise_error {α : Type} (f : FaultInfo) (s : State) (k : α → Out) :
    orRaise (.error f) s k = raise f s := rfl

/-- A next state of an access that may fault: it is either the continuation's, or the fault raised. -/
theorem orRaise_eq_next {α : Type} {r : Except FaultInfo α} {s t : State} {k : α → Out}
    (h : orRaise r s k = .next t) :
    (∃ a, r = .ok a ∧ k a = .next t) ∨ (∃ f, r = .error f ∧ raise f s = .next t) := by
  cases r with
  | ok a => exact .inl ⟨a, rfl, h⟩
  | error f => exact .inr ⟨f, rfl, h⟩

/-! ### Memory ranges -/

theorem rangeFault_of_fits {base n : Nat} (h : n = 0 ∨ base + n ≤ 0x1000) : rangeFault base n = none := by
  unfold rangeFault
  rw [if_neg (by omega)]

theorem rangeFault_of_exceeds {base n : Nat} (hn : 0 < n) (h : 0x1000 < base + n) :
    rangeFault base n = some ⟨.memRange, BitVec.ofNat 16 (base + n - 1)⟩ := by
  unfold rangeFault
  rw [if_pos (by omega)]

theorem State.readBytes_of_fits (s : State) {base n : Nat} (h : n = 0 ∨ base + n ≤ 0x1000) :
    s.readBytes base n = .ok ((List.range n).map fun k => s.readByte (base + k)) := by
  simp [State.readBytes, rangeFault_of_fits h]

theorem State.readBytes_of_exceeds (s : State) {base n : Nat} (hn : 0 < n) (h : 0x1000 < base + n) :
    s.readBytes base n = .error ⟨.memRange, BitVec.ofNat 16 (base + n - 1)⟩ := by
  simp [State.readBytes, rangeFault_of_exceeds hn h]

theorem State.writeBytes_of_fits (s : State) {base : Nat} {bs : List Byte} (h : bs = [] ∨ base + bs.length ≤ 0x1000) :
    s.writeBytes base bs = .ok (s.setMem (s.mem.writeList base bs)) := by
  have h' : bs.length = 0 ∨ base + bs.length ≤ 0x1000 := by simpa using h
  simp [State.writeBytes, rangeFault_of_fits h']

theorem State.writeBytes_of_exceeds (s : State) {base : Nat} {bs : List Byte} (hn : 0 < bs.length)
    (h : 0x1000 < base + bs.length) :
    s.writeBytes base bs = .error ⟨.memRange, BitVec.ofNat 16 (base + bs.length - 1)⟩ := by
  simp [State.writeBytes, rangeFault_of_exceeds hn h]

/-- The byte at `c` after a write of bytes that fits. -/
theorem State.readByte_writeBytes {s t : State} {base : Nat} {bs : List Byte} (h : s.writeBytes base bs = .ok t)
    (c : Nat) :
    t.readByte c = if base ≤ c ∧ c < base + bs.length then bs.getD (c - base) 0#8 else s.readByte c := by
  unfold State.writeBytes at h
  split at h
  · cases h
  · injection h with h
    rw [← h]
    exact Memory.read_writeList bs s.mem base c

/-- A write of bytes changes the memory and nothing else. -/
theorem State.writeBytes_frame {s t : State} {base : Nat} {bs : List Byte} (h : s.writeBytes base bs = .ok t) :
    t = s.setMem t.mem := by
  unfold State.writeBytes at h
  split at h
  · cases h
  · injection h with h
    rw [← h]
    rfl

/-! ### Fetch -/

theorem fetch_of_le {s : State} (h : s.pc.toNat ≤ 0xFFE) :
    fetch s = .ok (wordOfBytes (s.readByte s.pc.toNat) (s.readByte (s.pc.toNat + 1))) := by
  unfold fetch
  rw [if_neg (by omega)]

theorem fetch_of_gt {s : State} (h : 0xFFE < s.pc.toNat) : fetch s = .error ⟨.fetchRange, s.pc⟩ := by
  unfold fetch
  rw [if_pos h]

/-! ### The call stack -/

theorem State.push_of_lt (s : State) (w : Word) (h : s.sp.val < 16) :
    s.push w = .ok { s with stack := s.stack.set s.sp.val w h, sp := ⟨s.sp.val + 1, by omega⟩ } := by
  unfold State.push
  rw [dif_neg (by omega)]

theorem State.push_of_full (s : State) (w : Word) (h : s.sp.val = 16) :
    s.push w = .error ⟨.stackOverflow, s.pc⟩ := by
  unfold State.push
  rw [dif_pos (by omega)]

theorem State.pop_of_pos (s : State) (h : 0 < s.sp.val) :
    s.pop = .ok (s.stack[s.sp.val - 1]'(by omega), { s with sp := ⟨s.sp.val - 1, by omega⟩ }) := by
  unfold State.pop
  rw [dif_neg (by omega)]

theorem State.pop_of_empty (s : State) (h : s.sp.val = 0) : s.pop = .error ⟨.stackUnderflow, s.pc⟩ := by
  unfold State.pop
  rw [dif_pos h]

/-- A push that succeeds: a slot was free, and it is written. -/
theorem State.push_eq_ok {s t : State} {w : Word} (h : s.push w = .ok t) :
    ∃ hn : s.sp.val < 16, t = { s with stack := s.stack.set s.sp.val w, sp := ⟨s.sp.val + 1, by omega⟩ } := by
  unfold State.push at h
  split at h
  · cases h
  · injection h with h
    exact ⟨by omega, h.symm⟩

/-- A pop that succeeds: an address was held, and no slot changes. -/
theorem State.pop_eq_ok {s t : State} {w : Word} (h : s.pop = .ok (w, t)) :
    ∃ n, ∃ hn : n < 16, s.sp.val = n + 1 ∧ w = s.stack[n] ∧ t = { s with sp := ⟨n, by omega⟩ } := by
  unfold State.pop at h
  split at h
  · cases h
  · injection h with h
    injection h with h1 h2
    exact ⟨s.sp.val - 1, by omega, by omega, h1.symm, h2.symm⟩

/-! ### The keypad -/

theorem State.keyDown_of_lt (s : State) {k : Nat} (h : k < 16) : s.keyDown k = s.key[k] := by
  simp [State.keyDown, h]

theorem State.keyOf_of_lt (s : State) {x : Reg} (h : (s.getV x).toNat < 16) :
    s.keyOf x = .ok (s.key[(s.getV x).toNat]) := by
  simp [State.keyOf, show ¬ 15 < (s.getV x).toNat by omega, State.keyDown_of_lt s h]

theorem State.keyOf_of_gt (s : State) {x : Reg} (h : 15 < (s.getV x).toNat) :
    s.keyOf x = .error ⟨.keyIndex, (s.getV x).setWidth 16⟩ := by
  simp [State.keyOf, h]

/-- The scan over the first `n` indices finds the last one that satisfies `p`, if there is one. -/
theorem lastOf_range (p : Nat → Bool) (n : Nat) :
    match (List.range n).foldl (fun found k => if p k then some k else found) none with
    | none => ∀ k < n, p k = false
    | some k => k < n ∧ p k = true ∧ ∀ j < n, k < j → p j = false := by
  induction n with
  | zero => simp
  | succ n ih =>
    rw [List.range_succ, List.foldl_append]
    simp only [List.foldl_cons, List.foldl_nil]
    by_cases h : p n = true
    · simp only [h, if_true]
      exact ⟨by omega, trivial, fun j _ _ => by omega⟩
    · have hn : p n = false := by simpa using h
      simp only [hn, Bool.false_eq_true, if_false]
      split at ih
      · next e =>
        intro k hk
        rcases Nat.lt_succ_iff_lt_or_eq.1 hk with hk | rfl
        · exact ih k hk
        · exact hn
      · next e =>
        refine ⟨by omega, ih.2.1, fun j hj hlt => ?_⟩
        rcases Nat.lt_succ_iff_lt_or_eq.1 hj with hj | rfl
        · exact ih.2.2 j hj hlt
        · exact hn

/-- No key is found exactly where none is down. -/
theorem State.lastKeyDown_of_none {s : State} (h : s.lastKeyDown = none) (k : Nat) (hk : k < 16) :
    s.keyDown k = false := by
  have := lastOf_range s.keyDown 16
  rw [show (List.range 16).foldl (fun found k => if s.keyDown k then some k else found) none = none from h] at this
  exact this k hk

/-- The key found is down, and no higher one is. -/
theorem State.lastKeyDown_of_some {s : State} {k : Nat} (h : s.lastKeyDown = some k) :
    k < 16 ∧ s.keyDown k = true ∧ ∀ j < 16, k < j → s.keyDown j = false := by
  have := lastOf_range s.keyDown 16
  rw [show (List.range 16).foldl (fun found k => if s.keyDown k then some k else found) none = some k from h] at this
  exact this

end Sys2Proof.Machine
end

