-- ==== Sys2Proof/Laws/Display.lean ====
section
/-! SUPPORT. What a blit does: it flips a list of cells without repeats (R131 (d)), so every cell is XORed once and a
collision is a listed cell that was set before. -/

namespace Sys2Proof.Machine

/-- The cells of the set bits of sprite row `r`. -/
def rowCells (ox oy r : Nat) (b : Byte) : List Nat :=
  ((List.range 8).filter (spriteBit b)).map (spriteCell ox oy r)

/-- The cells of the set bits of a sprite, from row `r` on. -/
def spriteCells (ox oy : Nat) (r : Nat) : List Byte → List Nat
  | [] => []
  | b :: bs => rowCells ox oy r b ++ spriteCells ox oy (r + 1) bs

theorem Blit.row_eq_flips (ox oy r : Nat) (b : Byte) (p : Blit) :
    Blit.row ox oy r b p = (rowCells ox oy r b).foldl Blit.flip p := by
  rw [rowCells, List.foldl_map, List.foldl_filter]
  rfl

theorem Blit.rows_eq_flips (ox oy r : Nat) (p : Blit) (bs : List Byte) :
    Blit.rows ox oy r p bs = (spriteCells ox oy r bs).foldl Blit.flip p := by
  induction bs generalizing r p with
  | nil => rfl
  | cons b bs ih => rw [Blit.rows, ih, spriteCells, List.foldl_append, Blit.row_eq_flips]

/-- Flipping a cell inverts it and no other. -/
theorem cellAt_flipCell (f : FrameBuffer) {j k : Nat} (hk : k < 2048) :
    cellAt (flipCell f j) k = (cellAt f k ^^ decide (k = j)) := by
  have hk' : k / 64 < 32 := by omega
  unfold flipCell
  by_cases hj : j / 64 < 32
  · simp only [dif_pos hj, cellAt, dif_pos hk', Vector.getElem_set]
    by_cases hr : j / 64 = k / 64
    · have hb : (BitVec.twoPow 64 (j % 64)).getLsbD (k % 64) = decide (k = j) := by
        rw [BitVec.getLsbD_twoPow]
        by_cases hc : k = j
        · subst hc
          simp only [decide_true, Bool.and_true, decide_eq_true_eq]
          omega
        · have : j % 64 ≠ k % 64 := by omega
          simp [hc, this]
      simp [hr, BitVec.getLsbD_xor, hb]
    · have hc : k ≠ j := fun e => hr (by rw [e])
      simp [hr, hc]
  · have hc : k ≠ j := by omega
    simp [dif_neg hj, hc]

/-- A framebuffer is its 2048 cells. -/
theorem FrameBuffer.eq_of_cellAt_eq {f g : FrameBuffer} (h : ∀ k, k < 2048 → cellAt f k = cellAt g k) : f = g := by
  apply Vector.ext
  intro r hr
  apply BitVec.eq_of_getLsbD_eq
  intro c hc
  have := h (r * 64 + c) (by omega)
  have h1 : (r * 64 + c) / 64 = r := by omega
  have h2 : (r * 64 + c) % 64 = c := by omega
  simpa only [cellAt, h1, h2, dif_pos hr] using this

/-- A set cell lies in the framebuffer. -/
theorem lt_of_cellAt {f : FrameBuffer} {k : Nat} (h : cellAt f k = true) : k < 2048 := by
  unfold cellAt at h
  split at h
  · omega
  · cases h

theorem cellAt_blank (k : Nat) : cellAt blank k = false := by
  simp [cellAt, blank]

theorem Blit.flip_fb (p : Blit) {j k : Nat} (hk : k < 2048) :
    cellAt (p.flip j).fb k = (cellAt p.fb k ^^ decide (k = j)) :=
  cellAt_flipCell p.fb hk

/-- Flipping cells without repeats: each listed cell is inverted once, and a collision is a listed cell that was set. -/
theorem Blit.flips_of_nodup {ks : List Nat} (hn : ks.Nodup) (hb : ∀ k ∈ ks, k < 2048) (p : Blit) :
    (∀ k, k < 2048 → cellAt (ks.foldl Blit.flip p).fb k = (cellAt p.fb k ^^ decide (k ∈ ks))) ∧
      (ks.foldl Blit.flip p).collision = (p.collision || ks.any fun k => cellAt p.fb k) := by
  induction ks generalizing p with
  | nil => simp
  | cons j ks ih =>
    have hj : j ∉ ks := (List.nodup_cons.1 hn).1
    obtain ⟨h1, h2⟩ := ih (List.nodup_cons.1 hn).2 (fun k hk => hb k (List.mem_cons_of_mem _ hk)) (p.flip j)
    refine ⟨fun k hk => ?_, ?_⟩
    · rw [List.foldl_cons, h1 k hk, Blit.flip_fb p hk]
      by_cases hkj : k = j
      · subst hkj
        simp [hj]
      · simp [hkj]
    · rw [List.foldl_cons, h2, List.any_cons]
      have hs : (ks.any fun k => cellAt (p.flip j).fb k) = ks.any fun k => cellAt p.fb k := by
        rw [Bool.eq_iff_iff, List.any_eq_true, List.any_eq_true]
        refine exists_congr fun k => and_congr_right fun hk => ?_
        have hne : k ≠ j := fun e => hj (e ▸ hk)
        rw [Blit.flip_fb p (hb k (List.mem_cons_of_mem _ hk))]
        simp [hne]
      rw [hs]
      simp [Blit.flip, Bool.or_assoc]

/-- A cell lies in the framebuffer (R188). -/
theorem spriteCell_lt (ox oy r c : Nat) : spriteCell ox oy r c < 2048 := by
  unfold spriteCell cellOf
  omega

/-- A cell tells its column and row, each on its own ring (R132). -/
theorem spriteCell_eq_iff (ox oy r c k : Nat) :
    spriteCell ox oy r c = k ↔ k < 2048 ∧ k % 64 = (ox + c) % 64 ∧ k / 64 = (oy + r) % 32 := by
  unfold spriteCell cellOf
  omega

theorem mem_rowCells {ox oy r k : Nat} {b : Byte} :
    k ∈ rowCells ox oy r b ↔ ∃ c < 8, spriteBit b c = true ∧ spriteCell ox oy r c = k := by
  simp [rowCells, and_assoc]

theorem mem_spriteCells {ox oy r k : Nat} {bs : List Byte} :
    k ∈ spriteCells ox oy r bs ↔
      ∃ j < bs.length, ∃ c < 8, spriteBit (bs.getD j 0#8) c = true ∧ spriteCell ox oy (r + j) c = k := by
  induction bs generalizing r with
  | nil => simp [spriteCells]
  | cons b bs ih =>
    rw [spriteCells, List.mem_append, mem_rowCells, ih]
    constructor
    · rintro (⟨c, hc, h1, h2⟩ | ⟨j, hj, c, hc, h1, h2⟩)
      · exact ⟨0, by simp, c, hc, by simpa using h1, by simpa using h2⟩
      · exact ⟨j + 1, by simpa using hj, c, hc, by simpa using h1, by rw [← h2]; congr 1; omega⟩
    · rintro ⟨j, hj, c, hc, h1, h2⟩
      cases j with
      | zero => exact .inl ⟨c, hc, by simpa using h1, by simpa using h2⟩
      | succ j =>
        exact .inr ⟨j, by simpa using hj, c, hc, by simpa using h1, by rw [← h2]; congr 1; omega⟩

/-- Within one draw no cell is addressed twice (R131 (d)): up to 32 rows of 8 columns fall on distinct cells. -/
theorem spriteCells_nodup (ox oy r : Nat) (bs : List Byte) (h : r + bs.length ≤ 32) :
    (spriteCells ox oy r bs).Nodup := by
  induction bs generalizing r with
  | nil => exact List.nodup_nil
  | cons b bs ih =>
    rw [spriteCells, List.nodup_append]
    have hl : r + (bs.length + 1) ≤ 32 := by simpa using h
    refine ⟨?_, ih (r + 1) (by omega), ?_⟩
    · refine List.Nodup.map_on ?_ (List.nodup_range.filter _)
      intro c hc d hd e
      have hc' : c < 8 := by have := List.mem_filter.1 hc; simpa using this.1
      have hd' : d < 8 := by have := List.mem_filter.1 hd; simpa using this.1
      rw [spriteCell_eq_iff] at e
      have := (spriteCell_eq_iff ox oy r d _).1 rfl
      omega
    · intro k hk k' hk' e
      obtain ⟨c, hc, _, h2⟩ := mem_rowCells.1 hk
      obtain ⟨j, hj, d, hd, _, h4⟩ := mem_spriteCells.1 hk'
      rw [spriteCell_eq_iff] at h2 h4
      omega

end Sys2Proof.Machine
end

