-- ==== Sys2Proof/Laws/PerInstr.lean ====
section
/-! SUPPORT. The family RowMatch: the word of every instruction lies in the instruction's own row of the opcode map,
`op & mask = pattern` (R64). -/

namespace Sys2Proof.Laws

/-- `op & mask = pattern` for the row of number `k` (R64). -/
def matchesRow (op : Word) (k : Nat) : Prop := ∃ row ∈ opcodeRows, row.number = k ∧ op &&& row.mask = row.pattern

theorem and_maskTop (top : Nibble) (nnn : Imm12) : wordA top nnn &&& 0xF000#16 = wordA top 0#12 := by
  show (top ++ nnn) &&& (0xF#4 ++ 0#12) = _
  rw [BitVec.and_append, show (0xF#4 : BitVec 4) = BitVec.allOnes 4 from rfl, BitVec.and_allOnes, BitVec.and_zero]
  rfl

theorem and_maskTopNN (top x : Nibble) (nn : Byte) :
    wordA top (x ++ nn) &&& 0xF0FF#16 = wordA top (0#4 ++ nn) := by
  show (top ++ (x ++ nn)) &&& (0xF#4 ++ (0#4 ++ 0xFF#8)) = _
  rw [BitVec.and_append, BitVec.and_append, show (0xF#4 : BitVec 4) = BitVec.allOnes 4 from rfl,
    show (0xFF#8 : BitVec 8) = BitVec.allOnes 8 from rfl, BitVec.and_allOnes, BitVec.and_allOnes, BitVec.and_zero]
  rfl

theorem and_maskTopN (top x y n : Nibble) :
    wordA top (x ++ (y ++ n)) &&& 0xF00F#16 = wordA top (0#4 ++ (0#4 ++ n)) := by
  show ((top ++ (x ++ (y ++ n))) &&& (0xF#4 ++ (0#4 ++ (0#4 ++ 0xF#4))) : BitVec (4 + (4 + (4 + 4)))) =
    (wordA top (0#4 ++ (0#4 ++ n)) : BitVec 16)
  rw [BitVec.and_append, BitVec.and_append, BitVec.and_append,
    show (0xF#4 : BitVec 4) = BitVec.allOnes 4 from rfl, BitVec.and_allOnes, BitVec.and_allOnes, BitVec.and_zero,
    BitVec.and_zero]
  rfl

namespace RowMatch

/-- The statement of the family: the word of the instruction matches the row it is named for. -/
def Statement (i : Instr) : Prop := matchesRow (encode i) i.rowNumber

theorem cls (ign : Nibble) : Statement (.cls ign) :=
  ⟨⟨1, 0xF0FF, 0x00E0⟩, by decide, rfl, and_maskTopNN _ _ _⟩

theorem ret (ign : Nibble) : Statement (.ret ign) :=
  ⟨⟨2, 0xF0FF, 0x00EE⟩, by decide, rfl, and_maskTopNN _ _ _⟩

theorem sys (nnn : Imm12) : Statement (.sys nnn) :=
  ⟨⟨3, 0xF000, 0x0000⟩, by decide, rfl, and_maskTop _ _⟩

theorem jp (nnn : Imm12) : Statement (.jp nnn) :=
  ⟨⟨4, 0xF000, 0x1000⟩, by decide, rfl, and_maskTop _ _⟩

theorem call (nnn : Imm12) : Statement (.call nnn) :=
  ⟨⟨5, 0xF000, 0x2000⟩, by decide, rfl, and_maskTop _ _⟩

theorem seImm (x : Reg) (nn : Byte) : Statement (.seImm x nn) :=
  ⟨⟨6, 0xF000, 0x3000⟩, by decide, rfl, and_maskTop _ _⟩

theorem sneImm (x : Reg) (nn : Byte) : Statement (.sneImm x nn) :=
  ⟨⟨7, 0xF000, 0x4000⟩, by decide, rfl, and_maskTop _ _⟩

theorem seReg (x y : Reg) (ign : Nibble) : Statement (.seReg x y ign) :=
  ⟨⟨8, 0xF000, 0x5000⟩, by decide, rfl, and_maskTop _ _⟩

theorem ldImm (x : Reg) (nn : Byte) : Statement (.ldImm x nn) :=
  ⟨⟨9, 0xF000, 0x6000⟩, by decide, rfl, and_maskTop _ _⟩

theorem addImm (x : Reg) (nn : Byte) : Statement (.addImm x nn) :=
  ⟨⟨10, 0xF000, 0x7000⟩, by decide, rfl, and_maskTop _ _⟩

theorem ldReg (x y : Reg) : Statement (.ldReg x y) :=
  ⟨⟨11, 0xF00F, 0x8000⟩, by decide, rfl, and_maskTopN _ _ _ _⟩

theorem orReg (x y : Reg) : Statement (.orReg x y) :=
  ⟨⟨12, 0xF00F, 0x8001⟩, by decide, rfl, and_maskTopN _ _ _ _⟩

theorem andReg (x y : Reg) : Statement (.andReg x y) :=
  ⟨⟨13, 0xF00F, 0x8002⟩, by decide, rfl, and_maskTopN _ _ _ _⟩

theorem xorReg (x y : Reg) : Statement (.xorReg x y) :=
  ⟨⟨14, 0xF00F, 0x8003⟩, by decide, rfl, and_maskTopN _ _ _ _⟩

theorem addReg (x y : Reg) : Statement (.addReg x y) :=
  ⟨⟨15, 0xF00F, 0x8004⟩, by decide, rfl, and_maskTopN _ _ _ _⟩

theorem subReg (x y : Reg) : Statement (.subReg x y) :=
  ⟨⟨16, 0xF00F, 0x8005⟩, by decide, rfl, and_maskTopN _ _ _ _⟩

theorem shr (x y : Reg) : Statement (.shr x y) :=
  ⟨⟨17, 0xF00F, 0x8006⟩, by decide, rfl, and_maskTopN _ _ _ _⟩

theorem subnReg (x y : Reg) : Statement (.subnReg x y) :=
  ⟨⟨18, 0xF00F, 0x8007⟩, by decide, rfl, and_maskTopN _ _ _ _⟩

theorem shl (x y : Reg) : Statement (.shl x y) :=
  ⟨⟨19, 0xF00F, 0x800E⟩, by decide, rfl, and_maskTopN _ _ _ _⟩

theorem sneReg (x y : Reg) (ign : Nibble) : Statement (.sneReg x y ign) :=
  ⟨⟨20, 0xF000, 0x9000⟩, by decide, rfl, and_maskTop _ _⟩

theorem ldI (nnn : Imm12) : Statement (.ldI nnn) :=
  ⟨⟨21, 0xF000, 0xA000⟩, by decide, rfl, and_maskTop _ _⟩

theorem jpV0 (nnn : Imm12) : Statement (.jpV0 nnn) :=
  ⟨⟨22, 0xF000, 0xB000⟩, by decide, rfl, and_maskTop _ _⟩

theorem rnd (x : Reg) (nn : Byte) : Statement (.rnd x nn) :=
  ⟨⟨23, 0xF000, 0xC000⟩, by decide, rfl, and_maskTop _ _⟩

theorem drw (x y : Reg) (n : Nibble) : Statement (.drw x y n) :=
  ⟨⟨24, 0xF000, 0xD000⟩, by decide, rfl, and_maskTop _ _⟩

theorem skp (x : Reg) : Statement (.skp x) :=
  ⟨⟨25, 0xF0FF, 0xE09E⟩, by decide, rfl, and_maskTopNN _ _ _⟩

theorem sknp (x : Reg) : Statement (.sknp x) :=
  ⟨⟨26, 0xF0FF, 0xE0A1⟩, by decide, rfl, and_maskTopNN _ _ _⟩

theorem ldVxDT (x : Reg) : Statement (.ldVxDT x) :=
  ⟨⟨27, 0xF0FF, 0xF007⟩, by decide, rfl, and_maskTopNN _ _ _⟩

theorem ldVxK (x : Reg) : Statement (.ldVxK x) :=
  ⟨⟨28, 0xF0FF, 0xF00A⟩, by decide, rfl, and_maskTopNN _ _ _⟩

theorem ldDTVx (x : Reg) : Statement (.ldDTVx x) :=
  ⟨⟨29, 0xF0FF, 0xF015⟩, by decide, rfl, and_maskTopNN _ _ _⟩

theorem ldSTVx (x : Reg) : Statement (.ldSTVx x) :=
  ⟨⟨30, 0xF0FF, 0xF018⟩, by decide, rfl, and_maskTopNN _ _ _⟩

theorem addI (x : Reg) : Statement (.addI x) :=
  ⟨⟨31, 0xF0FF, 0xF01E⟩, by decide, rfl, and_maskTopNN _ _ _⟩

theorem ldF (x : Reg) : Statement (.ldF x) :=
  ⟨⟨32, 0xF0FF, 0xF029⟩, by decide, rfl, and_maskTopNN _ _ _⟩

theorem ldB (x : Reg) : Statement (.ldB x) :=
  ⟨⟨33, 0xF0FF, 0xF033⟩, by decide, rfl, and_maskTopNN _ _ _⟩

theorem stRegs (x : Reg) : Statement (.stRegs x) :=
  ⟨⟨34, 0xF0FF, 0xF055⟩, by decide, rfl, and_maskTopNN _ _ _⟩

theorem ldRegs (x : Reg) : Statement (.ldRegs x) :=
  ⟨⟨35, 0xF0FF, 0xF065⟩, by decide, rfl, and_maskTopNN _ _ _⟩

end RowMatch

end Sys2Proof.Laws
end

