-- ==== Sys2Proof/Laws/Step.lean ====
section
/-! SUPPORT. The step by what the host issues, the Cycle by what is fetched, and runs of steps. -/

namespace Sys2Proof.Machine

/-! ### What the host issues -/

theorem State.issue_of_cons {s : State} {t : Transaction} {rest : List Transaction} (h : s.schedule = t :: rest) :
    s.issue = (t, { s with schedule := rest }) := by
  unfold State.issue
  rw [h]

theorem State.issue_of_cycling {s : State} (h : s.schedule = []) (hd : s.driver = .cycling) :
    s.issue = (.cycle, s) := by
  unfold State.issue
  rw [h, hd]

theorem State.issue_of_free {s : State} {turn : Nat} (h : s.schedule = []) (hd : s.driver = .free turn) :
    s.issue = (Config.hostChoice turn, { s with driver := .free (turn + 1) }) := by
  unfold State.issue
  rw [h, hd]

/-- Issuing a transaction moves only the host's own fields. -/
theorem State.issue_frame (s : State) :
    s.issue.2 = { s with schedule := s.issue.2.schedule, driver := s.issue.2.driver } := by
  unfold State.issue
  split <;> rfl

/-- The transaction issued is the first of the history. -/
theorem State.history_zero (s : State) : s.history 0 = s.issue.1 := by
  unfold State.history State.issue
  cases hs : s.schedule <;> cases hd : s.driver <;> simp

/-- The rest of the history is the history of any state with the same host behind it. -/
theorem State.history_succ {s t : State} (hs : t.schedule = s.issue.2.schedule) (hd : t.driver = s.issue.2.driver)
    (k : Nat) : t.history k = s.history (k + 1) := by
  unfold State.history
  rw [hs, hd]
  unfold State.issue
  cases h : s.schedule <;> cases h' : s.driver <;> simp [h, h']
  congr 1
  omega

/-! ### The step -/

theorem step_of_cons {s : State} {t : Transaction} {rest : List Transaction} (h : s.schedule = t :: rest) :
    step s = transact t { s with schedule := rest } := by
  simp only [step, State.issue_of_cons h]

theorem step_of_cycling {s : State} (h : s.schedule = []) (hd : s.driver = .cycling) : step s = cycle s := by
  simp only [step, State.issue_of_cycling h hd, transact]

theorem step_of_free {s : State} {turn : Nat} (h : s.schedule = []) (hd : s.driver = .free turn) :
    step s = transact (Config.hostChoice turn) { s with driver := .free (turn + 1) } := by
  simp only [step, State.issue_of_free h hd]

/-- A Cycle is one of three: the fetch faults, the word is unknown, or the instruction runs. -/
theorem cycle_cases (s : State) :
    (0xFFE < s.pc.toNat ∧ cycle s = raise ⟨.fetchRange, s.pc⟩ s) ∨
    (s.pc.toNat ≤ 0xFFE ∧ ∃ op, fetch s = .ok op ∧
      ((∃ i, decodeWord op = .ok i ∧ cycle s = exec i s) ∨
        ∃ why, decodeWord op = .error why ∧ cycle s = execUnknown op s)) := by
  rcases Nat.lt_or_ge 0xFFE s.pc.toNat with h | h
  · exact .inl ⟨h, by simp [cycle, fetch_of_gt h]⟩
  · refine .inr ⟨h, _, fetch_of_le h, ?_⟩
    unfold cycle
    rw [fetch_of_le h, orRaise_ok]
    generalize decodeWord (wordOfBytes (s.readByte s.pc.toNat) (s.readByte (s.pc.toNat + 1))) = d
    cases d with
    | ok i => exact .inl ⟨i, rfl, rfl⟩
    | error why => exact .inr ⟨why, rfl, rfl⟩

/-- A first step that answers a next state, and the rest of the run from it. -/
theorem run_succ_of_next {s t : State} (n : Nat) (h : step s = .next t) :
    Host.Core.run core (n + 1) s = Host.Core.run core n t := by
  have h' : core.step s = Host.Outcome.next t := h
  simp only [Host.Core.run, h']

/-- A run of `n` steps that answers a next state, and one more step. -/
theorem run_succ_eq_step {s t : State} (n : Nat) (h : Host.Core.run core n s = .next t) :
    Host.Core.run core (n + 1) s = step t := by
  induction n generalizing s with
  | zero =>
    have hst : s = t := by injection h
    subst hst
    cases e : core.step s with
    | next u => simp only [Host.Core.run, e]; exact e.symm
    | fault r => simp only [Host.Core.run, e]; exact e.symm
    | refused r => simp only [Host.Core.run, e]; exact e.symm
  | succ n ih =>
    cases e : core.step s with
    | next u =>
      rw [run_succ_of_next (n + 1) e]
      rw [run_succ_of_next n e] at h
      exact ih h
    | fault r => simp only [Host.Core.run, e] at h; cases h
    | refused r => simp only [Host.Core.run, e] at h; cases h

end Sys2Proof.Machine
end

