-- ==== Sys2Proof/Tests/Slice0.lean ====
section
/-! SUPPORT. Tests: words written out from the encoding tables of the spec, the spec's own vectors (95_test_vectors.md,
named in each comment) on one step or transaction, the well-formedness smoke test, and a witness for the hypotheses of
every statement that has some. -/

namespace Sys2Proof.Tests

open Sys2Proof.Machine

/-! ### Helpers -/

/-- What a step left in one field of the state. -/
def got {α : Type} (o : Out) (f : State → α) : Option α :=
  match o with
  | .next s => some (f s)
  | .fault _ => none
  | .refused _ => none

/-- The reset state with some registers set. -/
def regs (l : List (Reg × Byte)) : State := l.foldl (fun s p => s.setV p.1 p.2) State.reset

/-- With bytes in memory. -/
def bytesAt (a : Nat) (bs : List Byte) (s : State) : State := s.setMem (s.mem.writeList a bs)

/-- One step of the word `w` placed where the state fetches. -/
def stepOf (w : Nat) (s : State) : Out := step (s.withFetchWord 16 w)

/-! ### Well-formedness: the one check refuses the words that are CLS or RET -/

theorem test_sys_word_of_cls_ill_formed : (Instr.sys 0x0E0).wellFormed = false := by decide
theorem test_sys_word_of_ret_ill_formed : (Instr.sys 0x5EE).wellFormed = false := by decide
theorem test_sys_well_formed : (Instr.sys 0x123).wellFormed = true := by decide

/-! ### Decoding: every constructor by a word written out from R61 and R64 -/

theorem test_decode_cls : decodeWord 0b0000_0000_1110_0000#16 = .ok (.cls 0) := by decide
-- T-DEC-2: bits 11:8 ignored
theorem test_decode_cls_ignored_bits : decodeWord 0b0000_0101_1110_0000#16 = .ok (.cls 5) := by decide
theorem test_decode_ret : decodeWord 0b0000_0000_1110_1110#16 = .ok (.ret 0) := by decide
theorem test_decode_sys : decodeWord 0b0000_0000_0000_0000#16 = .ok (.sys 0) := by decide
theorem test_decode_jp : decodeWord 0b0001_1010_1011_1100#16 = .ok (.jp 0xABC) := by decide
theorem test_decode_call : decodeWord 0b0010_0011_0000_0000#16 = .ok (.call 0x300) := by decide
theorem test_decode_seImm : decodeWord 0b0011_0101_0000_0001#16 = .ok (.seImm 5 1) := by decide
theorem test_decode_sneImm : decodeWord 0b0100_0101_1000_0000#16 = .ok (.sneImm 5 0x80) := by decide
-- T-DEC-6, T-DEC-7: the low nibble is ignored
theorem test_decode_seReg : decodeWord 0b0101_0001_0010_0001#16 = .ok (.seReg 1 2 1) := by decide
theorem test_decode_sneReg : decodeWord 0b1001_0001_0010_1111#16 = .ok (.sneReg 1 2 15) := by decide
theorem test_decode_ldImm : decodeWord 0b0110_1111_1010_1011#16 = .ok (.ldImm 15 0xAB) := by decide
theorem test_decode_addImm : decodeWord 0b0111_0001_1111_1111#16 = .ok (.addImm 1 0xFF) := by decide
theorem test_decode_ldReg : decodeWord 0b1000_0011_0100_0000#16 = .ok (.ldReg 3 4) := by decide
theorem test_decode_orReg : decodeWord 0b1000_0001_0010_0001#16 = .ok (.orReg 1 2) := by decide
theorem test_decode_andReg : decodeWord 0b1000_0001_0010_0010#16 = .ok (.andReg 1 2) := by decide
theorem test_decode_xorReg : decodeWord 0b1000_0001_0010_0011#16 = .ok (.xorReg 1 2) := by decide
theorem test_decode_addReg : decodeWord 0b1000_1111_0001_0100#16 = .ok (.addReg 15 1) := by decide
theorem test_decode_subReg : decodeWord 0b1000_0001_0010_0101#16 = .ok (.subReg 1 2) := by decide
theorem test_decode_shr : decodeWord 0b1000_0001_0010_0110#16 = .ok (.shr 1 2) := by decide
theorem test_decode_subnReg : decodeWord 0b1000_0001_0010_0111#16 = .ok (.subnReg 1 2) := by decide
theorem test_decode_shl : decodeWord 0b1000_0001_0010_1110#16 = .ok (.shl 1 2) := by decide
theorem test_decode_ldI : decodeWord 0b1010_0010_1111_0000#16 = .ok (.ldI 0x2F0) := by decide
theorem test_decode_jpV0 : decodeWord 0b1011_0011_0000_0000#16 = .ok (.jpV0 0x300) := by decide
theorem test_decode_rnd : decodeWord 0b1100_0011_0000_1111#16 = .ok (.rnd 3 0x0F) := by decide
-- T-DEC-16
theorem test_decode_drw : decodeWord 0b1101_0101_1010_0111#16 = .ok (.drw 5 10 7) := by decide
theorem test_decode_skp : decodeWord 0b1110_0010_1001_1110#16 = .ok (.skp 2) := by decide
theorem test_decode_sknp : decodeWord 0b1110_0000_1010_0001#16 = .ok (.sknp 0) := by decide
theorem test_decode_ldVxDT : decodeWord 0b1111_0101_0000_0111#16 = .ok (.ldVxDT 5) := by decide
theorem test_decode_ldVxK : decodeWord 0b1111_0001_0000_1010#16 = .ok (.ldVxK 1) := by decide
theorem test_decode_ldDTVx : decodeWord 0b1111_0101_0001_0101#16 = .ok (.ldDTVx 5) := by decide
theorem test_decode_ldSTVx : decodeWord 0b1111_0101_0001_1000#16 = .ok (.ldSTVx 5) := by decide
theorem test_decode_addI : decodeWord 0b1111_0010_0001_1110#16 = .ok (.addI 2) := by decide
theorem test_decode_ldF : decodeWord 0b1111_0000_0010_1001#16 = .ok (.ldF 0) := by decide
theorem test_decode_ldB : decodeWord 0b1111_0011_0011_0011#16 = .ok (.ldB 3) := by decide
theorem test_decode_stRegs : decodeWord 0b1111_0010_0101_0101#16 = .ok (.stRegs 2) := by decide
-- T-DEC-15
theorem test_decode_ldRegs : decodeWord 0b1111_1111_0110_0101#16 = .ok (.ldRegs 15) := by decide
-- T-DEC-8, T-DEC-11, T-DEC-13
theorem test_decode_unknown_8 : decodeWord 0x8128#16 = .error (.unknownOpcode 0x8128) := by decide
theorem test_decode_unknown_E : decodeWord 0xE19F#16 = .error (.unknownOpcode 0xE19F) := by decide
theorem test_decode_unknown_F : decodeWord 0xF100#16 = .error (.unknownOpcode 0xF100) := by decide
theorem test_decode_truncated : decode [0x12] = .error .truncated := by decide
-- T-DEC-17: the first byte is the high one
theorem test_decode_big_endian : decode [0xA2, 0xF0, 0x99] = .ok (.ldI 0x2F0, [0x99]) := by decide
theorem test_decodeTableWord : decodeTableWord 16 0xA2F0 = some (.ldI 0x2F0) := by decide

/-! ### Control flow (95_test_vectors.md 2.2) -/

-- T-SYS-1
theorem test_sys : got (stepOf 0x0123 State.reset) (fun s => (s.pc, s.response)) = some (0x202, .ok) := by decide
-- T-RET-1
theorem test_ret :
    got (stepOf 0x00EE { State.reset with sp := 1, stack := State.reset.stack.set 0 0x0ABC })
      (fun s => (s.pc, s.sp, s.stack[0])) = some (0x0ABE, 0, 0x0ABC) := by decide
-- T-RET-2
theorem test_ret_empty :
    got (stepOf 0x00EE State.reset) (fun s => (s.pc, s.flt, s.response)) =
      some (0x200, 0x04, .fault ⟨.stackUnderflow, 0x200⟩) := by decide
-- T-JP-1
theorem test_jp : got (stepOf 0x1ABC State.reset) State.pc = some 0x0ABC := by decide
-- T-CALL-3
theorem test_call :
    got (stepOf 0x2300 { State.reset with sp := 15 }) (fun s => (s.pc, s.sp, s.stack[15])) =
      some (0x300, 16, 0x200) := by decide
-- T-CALL-2
theorem test_call_full :
    got (stepOf 0x2300 { State.reset with sp := 16 }) (fun s => (s.pc, s.sp, s.flt, s.response)) =
      some (0x200, 16, 0x02, .fault ⟨.stackOverflow, 0x200⟩) := by decide
-- T-SE-1, T-SE-2
theorem test_seImm : got (stepOf 0x3500 (regs [])) State.pc = some 0x204 := by decide
theorem test_seImm_not : got (stepOf 0x3500 (regs [(5, 1)])) State.pc = some 0x202 := by decide
-- T-SNE-1, T-SNE-2
theorem test_sneImm : got (stepOf 0x4500 (regs [(5, 0xFF)])) State.pc = some 0x204 := by decide
theorem test_sneImm_not : got (stepOf 0x4500 (regs [])) State.pc = some 0x202 := by decide
-- T-SER-1, T-SER-2
theorem test_seReg : got (stepOf 0x5120 (regs [(1, 9), (2, 9)])) State.pc = some 0x204 := by decide
theorem test_seReg_not : got (stepOf 0x5120 (regs [(1, 9), (2, 8)])) State.pc = some 0x202 := by decide
-- T-SNER-1, T-SNER-2
theorem test_sneReg : got (stepOf 0x9120 (regs [(1, 9), (2, 8)])) State.pc = some 0x204 := by decide
theorem test_sneReg_same : got (stepOf 0x9330 (regs [(3, 9)])) State.pc = some 0x202 := by decide
-- T-JPV0-2
theorem test_jpV0 :
    got (stepOf 0xBFFF (regs [(0, 0xFF)])) (fun s => (s.pc, s.getV 15)) = some (0x10FE, 0) := by decide
-- T-UNK-1
theorem test_unknown :
    got (stepOf 0xF1FF State.reset) (fun s => (s.pc, s.flt, s.response)) =
      some (0x202, 0, .unknown 0xF1FF) := by decide
-- T-JP-3
theorem test_fetch_beyond :
    got (step (State.reset.setPc 0xFFF)) (fun s => (s.pc, s.flt, s.response)) =
      some (0xFFF, 0x01, .fault ⟨.fetchRange, 0xFFF⟩) := by decide
-- T-SKIPEND-1
theorem test_skip_at_the_end : got (stepOf 0x3000 (State.reset.setPc 0xFFE)) State.pc = some 0x1002 := by decide

/-! ### Arithmetic and logic (2.3) -/

-- T-LDI-1
theorem test_ldImm : got (stepOf 0x6FAB State.reset) (fun s => (s.getV 15, s.pc)) = some (0xAB, 0x202) := by decide
-- T-ADDI-1
theorem test_addImm :
    got (stepOf 0x7101 (regs [(1, 0xFF), (15, 7)])) (fun s => (s.getV 1, s.getV 15)) = some (0, 7) := by decide
-- T-LDR-1
theorem test_ldReg : got (stepOf 0x8120 (regs [(1, 0x11), (2, 0x22)])) (fun s => s.getV 1) = some 0x22 := by decide
-- T-OR-1
theorem test_orReg :
    got (stepOf 0x8121 (regs [(1, 0x55), (2, 0xAA), (15, 1)])) (fun s => (s.getV 1, s.getV 15)) =
      some (0xFF, 1) := by decide
-- R104's example
theorem test_andReg : got (stepOf 0x8122 (regs [(1, 0xF0), (2, 0x3C)])) (fun s => s.getV 1) = some 0x30 := by decide
-- T-XOR-1
theorem test_xorReg : got (stepOf 0x8123 (regs [(1, 0xFF), (2, 0x0F)])) (fun s => s.getV 1) = some 0xF0 := by decide
-- T-ADD-5: the flag is written last
theorem test_addReg_into_VF :
    got (stepOf 0x8F14 (regs [(15, 0xF0), (1, 0x20)])) (fun s => s.getV 15) = some 1 := by decide
-- T-ADD-6: the old VF is the operand
theorem test_addReg_from_VF :
    got (stepOf 0x81F4 (regs [(1, 1), (15, 0xFF)])) (fun s => (s.getV 1, s.getV 15)) = some (0, 1) := by decide
-- T-SUB-2, T-SUB-3
theorem test_subReg :
    got (stepOf 0x8125 (regs [(1, 0x0A), (2, 0x14)])) (fun s => (s.getV 1, s.getV 15)) = some (0xF6, 0) := by decide
theorem test_subReg_equal :
    got (stepOf 0x8125 (regs [(1, 0x33), (2, 0x33), (15, 1)])) (fun s => (s.getV 1, s.getV 15)) =
      some (0, 0) := by decide
-- T-SHR-1, T-SHR-3
theorem test_shr :
    got (stepOf 0x8126 (regs [(1, 1), (2, 0xEE)])) (fun s => (s.getV 1, s.getV 2, s.getV 15)) =
      some (0, 0xEE, 1) := by decide
theorem test_shr_VF : got (stepOf 0x8F06 (regs [(15, 2)])) (fun s => s.getV 15) = some 0 := by decide
-- T-SUBN-1, T-SUBN-2
theorem test_subnReg :
    got (stepOf 0x8127 (regs [(1, 0x0A), (2, 0x14)])) (fun s => (s.getV 1, s.getV 15)) = some (0x0A, 1) := by decide
theorem test_subnReg_borrow :
    got (stepOf 0x8127 (regs [(1, 0x14), (2, 0x0A)])) (fun s => (s.getV 1, s.getV 15)) = some (0xF6, 0) := by decide
-- T-SHL-3
theorem test_shl :
    got (stepOf 0x812E (regs [(1, 0xFF)])) (fun s => (s.getV 1, s.getV 15)) = some (0xFE, 1) := by decide
-- T-RND-1: mask 0, any draw
theorem test_rnd : got (exec (.rnd 1 0) (regs [(1, 9)])) (fun s => (s.getV 1, s.draws)) = some (0, 1) := by
  simp [exec, execRnd, completeNext, complete, got]
  rfl

/-! ### Index and memory (2.4) -/

-- T-LDIDX-1
theorem test_ldI : got (stepOf 0xAFFF State.reset) State.index = some 0x0FFF := by decide
-- T-ADDI-I-1, T-ADDI-I-2
theorem test_addI : got (stepOf 0xF11E ((regs [(1, 0x0F)]).setIndex 0xFF0)) State.index = some 0xFFF := by decide
theorem test_addI_overflow :
    got (stepOf 0xF11E ((regs [(1, 0x10)]).setIndex 0xFF0)) (fun s => (s.index, s.pc, s.flt, s.response)) =
      some (0xFF0, 0x200, 0x10, .fault ⟨.indexOverflow, 0x1000⟩) := by decide
-- T-FONT-3
theorem test_ldF : got (stepOf 0xF129 (regs [(1, 0xFF)])) State.index = some 0x04FB := by decide
-- T-BCD-4, T-BCD-5
theorem test_ldB :
    got (stepOf 0xF133 ((regs [(1, 0x7B)]).setIndex 0xFFD))
      (fun s => (s.readByte 0xFFD, s.readByte 0xFFE, s.readByte 0xFFF)) = some (1, 2, 3) := by decide
theorem test_ldB_range :
    got (stepOf 0xF133 ((regs [(1, 9)]).setIndex 0xFFE)) (fun s => (s.readByte 0xFFF, s.flt, s.response)) =
      some (0, 0x08, .fault ⟨.memRange, 0x1000⟩) := by decide
-- T-ST-1, T-ST-5
theorem test_stRegs :
    got (stepOf 0xF255 ((regs [(0, 1), (1, 2), (2, 3), (3, 4)]).setIndex 0x300))
      (fun s => (s.readByte 0x300, s.readByte 0x301, s.readByte 0x302, s.readByte 0x303, s.index)) =
      some (1, 2, 3, 0, 0x300) := by decide
theorem test_stRegs_over_glyph :
    got (stepOf 0xF055 State.reset) (fun s => (s.readByte 0, s.readByte 1)) = some (0x00, 0x90) := by decide
-- T-LD-2 (default GLYPHS), T-LD-3
theorem test_ldRegs :
    got (stepOf 0xF465 State.reset) (fun s => [s.getV 0, s.getV 1, s.getV 2, s.getV 3, s.getV 4, s.getV 5]) =
      some [0xF0, 0x90, 0x90, 0x90, 0xF0, 0] := by decide
theorem test_ldRegs_range :
    got (stepOf 0xFF65 (State.reset.setIndex 0xFF1)) (fun s => (s.getV 0, s.response)) =
      some (0, .fault ⟨.memRange, 0x1000⟩) := by decide

/-! ### Display (2.5) -/

-- T-CLS-1
theorem test_cls :
    got (stepOf 0x00E0 (State.reset.setFb (flipCell blank 5))) (fun s => (s.fb, s.redraw)) = some (blank, true) := by decide
-- T-DRW-2: wraps within row 0
theorem test_drw_wraps :
    got (stepOf 0xD121 (bytesAt 0x300 [0xFF] ((regs [(1, 60), (2, 0)]).setIndex 0x300)))
      (fun s => (s.fb, s.getV 15, s.redraw)) =
      some ((Vector.replicate 32 0#64).set 0 0xF000_0000_0000_000F, 0, true) := by decide
-- T-DRW-11: the origin is from the old VF
theorem test_drw_from_VF :
    got (stepOf 0xDF01 (bytesAt 0x300 [0x80] ((regs [(15, 5), (0, 2)]).setIndex 0x300)))
      (fun s => (s.fb, s.getV 15)) = some ((Vector.replicate 32 0#64).set 2 0x20, 0) := by decide

/-! ### Keypad, timers and transactions (2.6) -/

-- T-SKP-1, T-SKP-3
theorem test_skp :
    got (stepOf 0xE19E ((regs [(1, 5)]).setKey 5 true)) State.pc = some 0x204 := by decide
theorem test_skp_range :
    got (stepOf 0xE19E (regs [(1, 0x10)])) (fun s => (s.pc, s.flt, s.response)) =
      some (0x200, 0x20, .fault ⟨.keyIndex, 0x10⟩) := by decide
-- T-SKNP-1, T-SKNP-2
theorem test_sknp : got (stepOf 0xE1A1 (regs [(1, 5)])) State.pc = some 0x204 := by decide
theorem test_sknp_down : got (stepOf 0xE1A1 ((regs [(1, 5)]).setKey 5 true)) State.pc = some 0x202 := by decide
-- T-KEY-1, T-KEY-2
theorem test_ldVxK_waits :
    got (stepOf 0xF30A (regs [(3, 8)])) (fun s => (s.pc, s.getV 3, s.response)) =
      some (0x200, 8, .waiting) := by decide
theorem test_ldVxK_highest :
    got (stepOf 0xF30A (((State.reset.setKey 2 true).setKey 9 true).setKey 4 true)) (fun s => (s.pc, s.getV 3)) =
      some (0x202, 9) := by decide
-- T-DT-1, T-DT-2
theorem test_ldVxDT : got (stepOf 0xF107 (State.reset.setDt 0x2A)) (fun s => s.getV 1) = some 0x2A := by decide
theorem test_ldDTVx : got (stepOf 0xF115 (regs [(1, 0x2A)])) State.dt = some 0x2A := by decide
-- T-ST-S2
theorem test_ldSTVx :
    got (stepOf 0xF118 (State.reset.setSt 1)) (fun s => (s.st, s.response)) = some (0, .ok) := by decide
-- T-TICK-3, T-TICK-4
theorem test_tick :
    got (step { State.reset with dt := 5, st := 1, schedule := [.tick] }) (fun s => (s.dt, s.st, s.response)) =
      some (4, 0, .soundEdge true) := by decide
theorem test_tick_no_edge_for_DT :
    got (step { State.reset with dt := 1, schedule := [.tick] }) (fun s => (s.dt, s.st, s.response)) =
      some (0, 0, .soundEdge false) := by decide
-- T-KSET-1, T-KSET-2
theorem test_keySet_outside : got (transact (.keySet 16 true) State.reset) State.key = some State.reset.key := by decide
theorem test_keySet :
    got (transact (.keySet 15 false) (State.reset.setKey 15 true)) (fun s => s.key[15]) = some false := by decide
-- T-RDRW-1
theorem test_redrawTake :
    got (transact .redrawTake (State.reset.setRedraw true)) (fun s => (s.redraw, s.response)) =
      some (false, .redraw true) := by decide
theorem test_displayRead :
    got (transact .displayRead (State.reset.setFb (flipCell blank 9))) (fun s => (s.fb, s.response)) =
      some (flipCell blank 9, .display (flipCell blank 9)) := by decide
-- S9
theorem test_loadROM :
    got (transact (.loadROM [0x12, 0x34, 0x56]) State.reset)
      (fun s => (s.readByte 0x200, s.readByte 0x201, s.readByte 0x202, s.readByte 0x203)) =
      some (0x12, 0x34, 0x56, 0) := by decide
-- T-LOAD-2
theorem test_loadROM_too_long (bs : List Byte) (h : bs.length = 3585) :
    got (transact (.loadROM bs) State.reset) (fun s => (s.flt, s.response)) =
      some (0x40, .fault ⟨.loadRange, 3585⟩) := by
  simp only [transact, loadROM, h]
  rfl
-- T-RST-1
theorem test_reset :
    got (transact .reset { State.reset with pc := 0x9, flt := 5, schedule := [.tick], draws := 3 })
      (fun s => (s.pc, s.flt, s.schedule, s.draws)) = some (0x200, 0, [.tick], 3) := by decide
theorem test_reset_memory :
    [State.reset.readByte 0x000, State.reset.readByte 0x04F, State.reset.readByte 0x050] = [0xF0, 0x80, 0] := by
  decide
theorem test_reset_memory_canonical : State.reset.mem.wf = true := by decide
-- log 14: a fetch word placed where no fetch is possible
theorem test_withFetchWord_out_of_range :
    got (stepOf 0x6105 (State.reset.setPc 0x1000)) (fun s => (s.getV 1, s.pc)) = some (5, 0x202) := by decide

/-! ### Witnesses: states and operands that meet the hypotheses of each statement, at the ends of each clause -/

/-- The answer is a next state. -/
def completes (o : Out) : Bool := (got o fun _ => ()).isSome

theorem witness_DecodeOfEncode :
    (Instr.drw 15 15 15).wellFormed = true ∧ (Instr.sys 0xFFF).wellFormed = true := by decide

theorem witness_EncodeOfDecode : decodeWord 0x0FE0#16 = .ok (.cls 15) := by decide

-- the ends of the unknown ranges of each group, and the known words beside them
theorem witness_UnknownWordsAreThoseOfTheGroups :
    decodeWord 0x8008#16 = .error (.unknownOpcode 0x8008) ∧ decodeWord 0x8007#16 = .ok (.subnReg 0 0) ∧
    decodeWord 0x8FFF#16 = .error (.unknownOpcode 0x8FFF) ∧ decodeWord 0x8FFE#16 = .ok (.shl 15 15) ∧
    decodeWord 0xE09D#16 = .error (.unknownOpcode 0xE09D) ∧ decodeWord 0xE09E#16 = .ok (.skp 0) ∧
    decodeWord 0xF066#16 = .error (.unknownOpcode 0xF066) ∧ decodeWord 0xF065#16 = .ok (.ldRegs 0) := by decide

-- at the last fetchable pc: the Cycle after the schedule, and a Cycle of the schedule
theorem witness_StepRunsDecodedInstruction :
    let s := State.reset.setPc 0xFFE
    s.schedule = [] ∧ s.driver = .cycling ∧ ({ s with schedule := [.cycle] }).issue = (.cycle, s) ∧ s.pc.toNat ≤ 0xFFE ∧
      decodeWord (wordOfBytes (s.readByte s.pc.toNat) (s.readByte (s.pc.toNat + 1))) = .ok (.sys 0) := by decide

theorem witness_FetchBeyondMemoryFaults :
    let s := State.reset.setPc 0xFFF
    s.issue = (.cycle, s) ∧ ({ s with schedule := [.cycle] }).issue = (.cycle, s) ∧ 0xFFE < s.pc.toNat := by decide

theorem witness_UnknownOpcodeIsAReportedNoOp :
    let s := (State.reset.setPc 0xFFE).withFetchWord 16 0xF1FF
    s.issue = (.cycle, s) ∧ s.pc.toNat ≤ 0xFFE ∧
      decodeWord (wordOfBytes (s.readByte s.pc.toNat) (s.readByte (s.pc.toNat + 1))) =
        .error (.unknownOpcode 0xF1FF) := by decide

theorem witness_TransactionsRunInTheHostsOrder :
    ({ State.reset with schedule := [.tick, .redrawTake] }).schedule = .tick :: [.redrawTake] ∧
      (State.reset.schedule = [] ∧ State.reset.driver = .cycling) ∧
      (let s := { State.reset with driver := .free 3 }
       s.schedule = [] ∧ s.driver = .free 3) := by decide

-- a history: the schedule first, then the host's free turns
theorem witness_TransactionsRunInTheHostsOrder_history :
    let s := { State.reset with schedule := [.tick], driver := .free 7 }
    ∃ t, Host.Core.run core 1 s = .next t ∧ s.history 0 = .tick ∧ s.history 1 = Config.hostChoice 7 ∧
      s.history 2 = Config.hostChoice 8 :=
  ⟨_, rfl, rfl, rfl, rfl⟩

-- one address held, all sixteen held, none held
theorem witness_ReturnPopsTheCallSite :
    ({ State.reset with sp := 1 }).sp.val = 0 + 1 ∧ ({ State.reset with sp := 16 }).sp.val = 15 + 1 ∧
      State.reset.sp.val = 0 := by decide

-- an empty stack, one free slot, none
theorem witness_CallPushesItsOwnAddress :
    State.reset.sp.val = 0 ∧ ({ State.reset with sp := 15 }).sp.val = 15 ∧
      ({ State.reset with sp := 16 }).sp.val = 16 := by decide

theorem witness_ReturnUndoesCall :
    ∃ t u, ({ State.reset with sp := 15 }).sp.val < 16 ∧
      exec (.call 0x300) { State.reset with sp := 15 } = .next t ∧ exec (.ret 0) t = .next u :=
  ⟨_, _, by decide, rfl, rfl⟩

-- x other than F, and a register other than both
theorem witness_FlagIsWrittenLast : (14 : Reg) ≠ 15 ∧ (0 : Reg) ≠ 14 ∧ (0 : Reg) ≠ 15 := by decide

theorem witness_AddIndexFaultsAboveTheSpace :
    let s := regs [(1, 0x0F), (2, 0x10)]
    (s.setIndex 0xFF0).index.toNat + (s.getV 1).toNat = 0xFFF ∧
      (s.setIndex 0xFF0).index.toNat + (s.getV 2).toNat = 0x1000 := by decide

theorem witness_BcdStoresThreeDigits :
    (State.reset.setIndex 0xFFD).index.toNat + 2 = 0xFFF ∧
      (State.reset.setIndex 0xFFE).index.toNat + 2 = 0x1000 := by decide

-- x = 0 and x = F, the last range inside the memory and the first outside
theorem witness_BulkStoreWritesRegisters :
    (State.reset.setIndex 0xFFF).index.toNat + (0 : Reg).val ≤ 0xFFF ∧
      (State.reset.setIndex 0xFF0).index.toNat + (15 : Reg).val ≤ 0xFFF ∧
      0xFFF < (State.reset.setIndex 0xFF1).index.toNat + (15 : Reg).val := by decide

-- the registers loaded and those above, at x = 14
theorem witness_BulkLoadReadsMemory :
    (State.reset.setIndex 0xFF1).index.toNat + (14 : Reg).val ≤ 0xFFF ∧ (14 : Reg) ≤ 14 ∧ (14 : Reg) < 15 ∧
      0xFFF < (State.reset.setIndex 0xFF2).index.toNat + (14 : Reg).val := by decide

theorem witness_BulkLoadInvertsBulkStore :
    let s := (regs [(0, 7)]).setIndex 0xFFF
    ∃ t u w, s.index.toNat + (0 : Reg).val ≤ 0xFFF ∧ exec (.stRegs 0) s = .next t ∧ u.mem = t.mem ∧
      u.index = s.index ∧ exec (.ldRegs 0) u = .next w ∧ (0 : Reg) ≤ 0 :=
  ⟨_, { State.reset with mem := [(0xFFF, 7)], index := 0xFFF }, _, by decide, rfl, by decide, by decide, rfl, by decide⟩

theorem witness_StoredBytesAreFetchedNext :
    let s := (regs [(0, 0x12), (1, 0x34)]).setIndex 0x202
    ∃ t, (0 : Reg) ≤ 1 ∧ (1 : Reg) ≤ 1 ∧ (1 : Reg).val = (0 : Reg).val + 1 ∧ s.index.toNat + (1 : Reg).val ≤ 0xFFF ∧
      s.pc.toNat + 2 = s.index.toNat + (0 : Reg).val ∧ exec (.stRegs 1) s = .next t :=
  ⟨_, by decide, by decide, by decide, by decide, by decide, rfl⟩

-- the last sprite inside the memory, no rows at all beyond it, the first outside
theorem witness_DrawXorsTheSprite :
    (State.reset.setIndex 0xFF1).index.toNat + (15 : Nibble).toNat = 0x1000 ∧ (0 : Nibble) = 0 ∧
      0x1000 < (State.reset.setIndex 0xFF2).index.toNat + (15 : Nibble).toNat ∧ (15 : Nibble) ≠ 0 := by decide

-- a set cell under a set sprite bit, at the first and the last cell
theorem witness_DrawXorsTheSprite_collision :
    let s := (bytesAt 0x300 [0x80] ((regs [(1, 63), (2, 31)]).setIndex 0x300)).setFb
      (flipCell (flipCell blank 0) 2047)
    (cellAt s.fb 0 = true ∧ spriteCovers s 0 0 1 0 = true) ∧
      (cellAt s.fb 2047 = true ∧ spriteCovers s 1 2 1 2047 = true) := by decide

theorem witness_DrawXorsTheSprite_no_collision (k : Nat) (h : cellAt State.reset.fb k = true) :
    spriteCovers State.reset 0 0 15 k = false := by
  rw [show State.reset.fb = blank from rfl, cellAt_blank] at h
  cases h

theorem witness_DrawingTwiceRestoresTheDisplay :
    let s := (bytesAt 0x300 [0x80] State.reset).setIndex 0x300
    ∃ t u w, exec (.drw 0 0 1) s = .next t ∧ t.response = .ok ∧ u.fb = t.fb ∧ u.index = s.index ∧ u.mem = s.mem ∧
      u.getV 0 = s.getV 0 ∧ u.getV 0 = s.getV 0 ∧ exec (.drw 0 0 1) u = .next w :=
  ⟨_, { State.reset with fb := flipCell blank 0, mem := [(0x300, 0x80)], index := 0x300 }, _, rfl, rfl, by decide,
    by decide, by decide, by decide, by decide, rfl⟩

theorem witness_KeySkips :
    15 = ((regs [(1, 15)]).getV 1).toNat ∧ 15 < 16 ∧ 16 = ((regs [(1, 16)]).getV 1).toNat ∧ 15 < 16 := by decide

-- no key; only the lowest; the highest
theorem witness_KeyWaitTakesTheHighestKey :
    (∀ k : Fin 16, State.reset.key[k] = false) ∧
      (let s := State.reset.setKey 0 true
       s.key[(0 : Fin 16)] = true ∧ ∀ j : Fin 16, 0 < j → s.key[j] = false) ∧
      (let s := (State.reset.setKey 0 true).setKey 15 true
       s.key[(15 : Fin 16)] = true ∧ ∀ j : Fin 16, 15 < j → s.key[j] = false) := by decide

theorem witness_RepeatedTicksFloorAtZero :
    ({ State.reset with dt := 1, schedule := [.tick, .tick] }).schedule = List.replicate 2 .tick := by decide

theorem witness_KeySetChangesOneFlag : 15 < 16 ∧ 15 < 16 := by decide

theorem witness_LoadRomCopiesTheImage :
    (List.replicate 3584 (0x12 : Byte)).length ≤ 3584 ∧ 3584 < (List.replicate 3585 (0x12 : Byte)).length := by
  rw [List.length_replicate, List.length_replicate]
  decide

theorem witness_inv_of_reset : State.reset.Inv := ⟨by decide, by decide, by decide, by decide⟩

theorem witness_StepKeepsInvariant : ∃ t, State.reset.Inv ∧ step State.reset = .next t :=
  ⟨_, witness_inv_of_reset, rfl⟩

-- on both sides of each condition
theorem witness_FaultsArePreciseAndListed :
    let at_ (w : Word) := (regs [(1, 15), (2, 16)]).setIndex w
    faultCondition (.call 0) { State.reset with sp := 16 } = some ⟨.stackOverflow, 0x200⟩ ∧
    faultCondition (.call 0) { State.reset with sp := 15 } = none ∧
    faultCondition (.ret 0) State.reset = some ⟨.stackUnderflow, 0x200⟩ ∧
    faultCondition (.ret 0) { State.reset with sp := 1 } = none ∧
    faultCondition (.drw 0 0 15) (at_ 0xFF2) = some ⟨.memRange, 0x1000⟩ ∧
    faultCondition (.drw 0 0 15) (at_ 0xFF1) = none ∧ faultCondition (.drw 0 0 0) (at_ 0xFFFF) = none ∧
    faultCondition (.ldB 0) (at_ 0xFFE) = some ⟨.memRange, 0x1000⟩ ∧ faultCondition (.ldB 0) (at_ 0xFFD) = none ∧
    faultCondition (.addI 2) (at_ 0xFF0) = some ⟨.indexOverflow, 0x1000⟩ ∧
    faultCondition (.addI 1) (at_ 0xFF0) = none ∧
    faultCondition (.skp 2) (at_ 0) = some ⟨.keyIndex, 16⟩ ∧ faultCondition (.skp 1) (at_ 0) = none := by decide

theorem witness_OnlyResetClearsFlt :
    let s := { State.reset with flt := 0b1000001, schedule := [.tick] }
    ∃ t, s.issue.1 ≠ .reset ∧ step s = .next t :=
  ⟨_, by decide, rfl⟩

-- a Cycle that returns Ok, one that waits, one that faults
theorem witness_PcFollowsTheTable :
    (∃ t, exec (.jp 0xFFF) State.reset = .next t ∧ t.response = .ok) ∧
      (∃ t, exec (.ldVxK 0) State.reset = .next t ∧ t.response ≠ .ok) ∧
      ∃ t, exec (.ret 0) State.reset = .next t ∧ t.response ≠ .ok :=
  ⟨⟨_, rfl, by decide⟩, ⟨_, rfl, by decide⟩, ⟨_, rfl, by decide⟩⟩

theorem witness_RegistersKeptOutsideDestinations :
    (∃ t, exec (.addReg 1 2) State.reset = .next t ∧ isDest (.addReg 1 2) 14 = false ∧
        ((14 : Reg) ≠ 15 ∨ writesFlag (.addReg 1 2) = false)) ∧
      ∃ t, exec (.orReg 1 2) State.reset = .next t ∧ isDest (.orReg 1 2) 15 = false ∧
        ((15 : Reg) ≠ 15 ∨ writesFlag (.orReg 1 2) = false) :=
  ⟨⟨_, rfl, by decide, by decide⟩, ⟨_, rfl, by decide, by decide⟩⟩

-- the byte after the stored ones, for both storing instructions, and any byte for another
theorem witness_MemoryKeptOutsideStores :
    let s := State.reset.setIndex 0x300
    (completes (exec (.ldB 1) s) = true ∧ s.base + 2 < 0x303) ∧
      (completes (exec (.stRegs 15) s) = true ∧ s.base + (15 : Reg).val < 0x310) ∧
      completes (exec (.ldRegs 15) s) = true := by decide

theorem witness_StackKeptOutsideCallAndRet :
    ∃ t, exec (.jp 0x300) State.reset = .next t ∧ (∀ nnn, Instr.jp 0x300 ≠ .call nnn) ∧
      ∀ ign, Instr.jp 0x300 ≠ .ret ign :=
  ⟨_, rfl, (fun _ h => nomatch h), (fun _ h => nomatch h)⟩

theorem witness_SpecialStateKeptOutsideItsInstructions :
    ∃ t, exec (.cls 0) State.reset = .next t ∧ (∀ nnn, Instr.cls 0 ≠ .ldI nnn) ∧ (∀ x, Instr.cls 0 ≠ .addI x) ∧
      (∀ x, Instr.cls 0 ≠ .ldF x) ∧ (∀ x, Instr.cls 0 ≠ .ldDTVx x) ∧ (∀ x, Instr.cls 0 ≠ .ldSTVx x) ∧
      ∀ x nn, Instr.cls 0 ≠ .rnd x nn :=
  ⟨_, rfl, (fun _ h => nomatch h), (fun _ h => nomatch h), (fun _ h => nomatch h), (fun _ h => nomatch h),
    (fun _ h => nomatch h), (fun _ _ h => nomatch h)⟩

-- the display clause, which is not about cls
theorem witness_SpecialStateKept_display :
    ∃ t, exec (.ldI 0x300) (State.reset.setRedraw true) = .next t ∧ (∀ ign, Instr.ldI 0x300 ≠ .cls ign) ∧
      (∀ x y n, Instr.ldI 0x300 ≠ .drw x y n) ∧ (State.reset.setRedraw true).redraw = true :=
  ⟨_, rfl, (fun _ h => nomatch h), (fun _ _ _ h => nomatch h), rfl⟩

theorem witness_NoInstructionReadsTheHiddenState :
    let s' := { State.reset with st := 5, redraw := true, flt := 0b11, response := .waiting }
    ∃ t t', State.reset.visible = s'.visible ∧ exec (.ret 0) State.reset = .next t ∧ exec (.ret 0) s' = .next t' :=
  ⟨_, _, by decide, rfl, rfl⟩

theorem witness_UnloadedCoreRunsNoOpsThenFaults : 1791 < 1792 ∧ 1792 ≤ 1792 := by decide

end Sys2Proof.Tests
end

section
/-! The fields of an arbitrary instruction word (R61): each as a number, and the longer ones as their nibbles. -/

namespace Sys2Proof

/-! ### Each field as a number -/

theorem toNat_fieldTop (op : Word) : (fieldTop op).toNat = op.toNat / 0x1000 := by
  have := op.isLt
  simp only [fieldTop, BitVec.extractLsb'_toNat, Nat.shiftRight_eq_div_pow]
  omega

theorem val_fieldX (op : Word) : (fieldX op).val = op.toNat / 0x100 % 0x10 := by
  simp only [fieldX, BitVec.val_toFin, BitVec.extractLsb'_toNat, Nat.shiftRight_eq_div_pow, Nat.reducePow]

theorem val_fieldY (op : Word) : (fieldY op).val = op.toNat / 0x10 % 0x10 := by
  simp only [fieldY, BitVec.val_toFin, BitVec.extractLsb'_toNat, Nat.shiftRight_eq_div_pow, Nat.reducePow]

theorem toNat_fieldN (op : Word) : (fieldN op).toNat = op.toNat % 0x10 := by
  simp only [fieldN, BitVec.extractLsb'_toNat, Nat.shiftRight_zero, Nat.reducePow]

theorem toNat_fieldNN (op : Word) : (fieldNN op).toNat = op.toNat % 0x100 := by
  simp only [fieldNN, BitVec.extractLsb'_toNat, Nat.shiftRight_zero, Nat.reducePow]

theorem toNat_fieldNNN (op : Word) : (fieldNNN op).toNat = op.toNat % 0x1000 := by
  simp only [fieldNNN, BitVec.extractLsb'_toNat, Nat.shiftRight_zero, Nat.reducePow]

/-! ### How the fields overlap -/

/-- The low byte is the nibbles `y` and `n`, which lie side by side in the word. -/
theorem fieldNN_eq_append (op : Word) : fieldNN op = regBits (fieldY op) ++ fieldN op :=
  (BitVec.extractLsb'_append_extractLsb'_eq_extractLsb' (x := op) (start₁ := 0) (len₁ := 4) (len₂ := 4) rfl).symm

/-- The low 12 bits are the nibble `x` above the low byte. -/
theorem fieldNNN_eq_append_fieldNN (op : Word) : fieldNNN op = regBits (fieldX op) ++ fieldNN op :=
  (BitVec.extractLsb'_append_extractLsb'_eq_extractLsb' (x := op) (start₁ := 0) (len₁ := 8) (len₂ := 4) rfl).symm

theorem fieldNNN_eq_append (op : Word) : fieldNNN op = regBits (fieldX op) ++ regBits (fieldY op) ++ fieldN op := by
  rw [fieldNNN_eq_append_fieldNN, fieldNN_eq_append]
  exact (BitVec.append_assoc (x₃ := fieldN op)).symm

/-- Settles O5: the fields as numbers, then the low byte and the low 12 bits as the nibbles they are made of. -/
theorem fieldsOfTheWord : Obligations.FieldsOfTheWord := fun op =>
  ⟨toNat_fieldTop op, val_fieldX op, val_fieldY op, toNat_fieldN op, toNat_fieldNN op, toNat_fieldNNN op,
    fieldNNN_eq_append op, fieldNN_eq_append op⟩

end Sys2Proof
end

section
/-! The two absolute jumps (R82, R88): the addresses they compute, as numbers, and the state they leave. -/

namespace Sys2Proof
open Machine

/-! ### The target addresses as numbers -/

theorem immAddr_eq_ofNat (nnn : Imm12) : immAddr nnn = BitVec.ofNat 16 nnn.toNat :=
  (BitVec.ofNat_toNat 16 nnn).symm

theorem zextByte_eq_ofNat (b : Byte) : zextByte b = BitVec.ofNat 16 b.toNat :=
  (BitVec.ofNat_toNat 16 b).symm

theorem offsetTarget_eq_ofNat (s : State) (nnn : Imm12) :
    offsetTarget s nnn = BitVec.ofNat 16 (nnn.toNat + (s.getV 0).toNat) := by
  rw [offsetTarget, immAddr_eq_ofNat, zextByte_eq_ofNat, BitVec.ofNat_add]

/-! ### The instructions -/

/-- How every completed jump ends: pc is the target, the Cycle returns Ok, and nothing else changes. -/
theorem complete_setPc (s : State) (w : Word) : complete (s.setPc w) = .next { s with pc := w, response := .ok } :=
  complete_eq (s.setPc w)

theorem exec_jp (nnn : Imm12) (s : State) : exec (.jp nnn) s = complete (s.setPc (immAddr nnn)) := rfl

theorem exec_jpV0 (nnn : Imm12) (s : State) : exec (.jpV0 nnn) s = complete (s.setPc (offsetTarget s nnn)) := rfl

/-- Settles O16: the target is the zero-extended immediate, and completing a jump changes only pc and the response. -/
theorem jumpSetsPc : Obligations.JumpSetsPc := by
  intro nnn s
  rw [exec_jp, complete_setPc, immAddr_eq_ofNat]

/-- Settles O17: the 16-bit sum of the zero-extended operands is the number `nnn + V[0]`, and only pc and the response
change. -/
theorem jumpWithOffsetAddsV0 : Obligations.JumpWithOffsetAddsV0 := by
  intro nnn s
  rw [exec_jpV0, complete_setPc, offsetTarget_eq_ofNat]

end Sys2Proof
end

section
/-! The register instructions that set no flag (R100, R101, R103 to R105): each writes the one register `x`. -/

namespace Sys2Proof
open Machine

/-! ### The sum as a number -/

theorem addBytes_eq_ofNat_mod (a b : Byte) : addBytes a b = BitVec.ofNat 8 ((a.toNat + b.toNat) % 256) :=
  BitVec.eq_of_toNat_eq (by simp only [addBytes, BitVec.toNat_ofNat, Nat.reducePow, Nat.mod_mod])

/-! ### The instructions -/

/-- How every write of one register ends: pc advances, the Cycle returns Ok, and no other register changes, VF
included. -/
theorem completeNext_setV (s : State) (x : Reg) (b : Byte) :
    completeNext (s.setV x b) = .next { s with v := s.v.set x b, pc := s.pc + 2, response := .ok } :=
  completeNext_eq (s.setV x b)

theorem exec_ldImm (x : Reg) (nn : Byte) (s : State) : exec (.ldImm x nn) s = completeNext (s.setV x nn) := rfl

theorem exec_addImm (x : Reg) (nn : Byte) (s : State) :
    exec (.addImm x nn) s = completeNext (s.setV x (addBytes (s.getV x) nn)) := rfl

theorem exec_orReg (x y : Reg) (s : State) :
    exec (.orReg x y) s = completeNext (s.setV x (s.getV x ||| s.getV y)) := rfl

theorem exec_andReg (x y : Reg) (s : State) :
    exec (.andReg x y) s = completeNext (s.setV x (s.getV x &&& s.getV y)) := rfl

theorem exec_xorReg (x y : Reg) (s : State) :
    exec (.xorReg x y) s = completeNext (s.setV x (s.getV x ^^^ s.getV y)) := rfl

/-- Settles O19: the instruction is one register write, of the immediate. -/
theorem loadImmediate : Obligations.LoadImmediate := by
  intro x nn s
  rw [exec_ldImm, completeNext_setV]

/-- Settles O20: the byte written is the sum modulo 256, and that write is the only one. -/
theorem addImmediateWrapsWithoutFlag : Obligations.AddImmediateWrapsWithoutFlag := by
  intro x nn s
  rw [exec_addImm, completeNext_setV, addBytes_eq_ofNat_mod]

/-- Settles O22: each of the three is one register write, of the bitwise result. -/
theorem logicIsBitwiseWithoutFlag : Obligations.LogicIsBitwiseWithoutFlag := by
  intro x y s
  refine ⟨?_, ?_, ?_⟩
  · rw [exec_orReg, completeNext_setV]
  · rw [exec_andReg, completeNext_setV]
  · rw [exec_xorReg, completeNext_setV]

end Sys2Proof
end

section
/-! The load of the index register with an immediate (R120). -/

namespace Sys2Proof
open Machine

/-- How every completed write of I ends: pc advances, the Cycle returns Ok, and nothing else changes. -/
theorem completeNext_setIndex (s : State) (w : Word) :
    completeNext (s.setIndex w) = .next { s with index := w, pc := s.pc + 2, response := .ok } :=
  completeNext_eq (s.setIndex w)

theorem exec_ldI (nnn : Imm12) (s : State) : exec (.ldI nnn) s = completeNext (s.setIndex (immAddr nnn)) := rfl

/-- Settles O28: the instruction is one write of I, of the zero-extended immediate. -/
theorem loadIndex : Obligations.LoadIndex := by
  intro nnn s
  rw [exec_ldI, completeNext_setIndex, immAddr_eq_ofNat]

end Sys2Proof
end

section
/-! The clearing of the display (R130): a write of the blank framebuffer and of REDRAW. -/

namespace Sys2Proof
open Machine

/-- How every completed draw of a whole framebuffer ends: REDRAW is set, pc advances, the Cycle returns Ok, and nothing
else changes. -/
theorem completeNext_setFb_setRedraw (s : State) (f : FrameBuffer) :
    completeNext ((s.setFb f).setRedraw true) = .next { s with fb := f, redraw := true, pc := s.pc + 2, response := .ok } :=
  completeNext_eq ((s.setFb f).setRedraw true)

theorem blank_eq_replicate : blank = Vector.replicate 32 0 := rfl

theorem exec_cls (ign : Nibble) (s : State) : exec (.cls ign) s = completeNext ((s.setFb blank).setRedraw true) := rfl

/-- Settles O36: the instruction writes the blank framebuffer and REDRAW, and every cell of the blank framebuffer is
clear. -/
theorem clearDisplay : Obligations.ClearDisplay := by
  intro ign s
  refine ⟨?_, cellAt_blank⟩
  rw [exec_cls, completeNext_setFb_setRedraw, blank_eq_replicate]

end Sys2Proof
end

section
/-! The key wait (R142): the scan finds the highest key that is down, and no key exactly where none is. -/

namespace Sys2Proof
open Machine

/-! ### What the scan finds -/

theorem lastKeyDown_eq_none {s : State} (hup : ∀ k : Fin 16, s.key[k] = false) : s.lastKeyDown = none := by
  cases hfound : s.lastKeyDown with
  | none => rfl
  | some k =>
    obtain ⟨hk, hdown, -⟩ := State.lastKeyDown_of_some hfound
    rw [State.keyDown_of_lt s hk] at hdown
    exact absurd hdown (Bool.eq_false_iff.1 (hup ⟨k, hk⟩))

/-- A key that is down with none down above it is the one found: the scan cannot stop below it, nor above it. -/
theorem lastKeyDown_eq_some {s : State} {k : Fin 16} (hdown : s.key[k] = true)
    (habove : ∀ j : Fin 16, k < j → s.key[j] = false) : s.lastKeyDown = some k.val := by
  have hkey : s.keyDown k = true := (State.keyDown_of_lt s k.isLt).trans hdown
  cases hfound : s.lastKeyDown with
  | none => exact absurd hkey (Bool.eq_false_iff.1 (State.lastKeyDown_of_none hfound k k.isLt))
  | some m =>
    obtain ⟨hm, hmdown, hmabove⟩ := State.lastKeyDown_of_some hfound
    rw [State.keyDown_of_lt s hm] at hmdown
    rcases Nat.lt_trichotomy m k with hlt | rfl | hgt
    · exact absurd hkey (Bool.eq_false_iff.1 (hmabove k k.isLt hlt))
    · rfl
    · exact absurd hmdown (Bool.eq_false_iff.1 (habove ⟨m, hm⟩ hgt))

/-! ### The instruction -/

theorem exec_ldVxK (x : Reg) (s : State) : exec (.ldVxK x) s = execLdVxK x s := rfl

theorem exec_ldVxK_of_none {s : State} (x : Reg) (h : s.lastKeyDown = none) :
    exec (.ldVxK x) s = .next (s.respond .waiting) := by
  rw [exec_ldVxK, execLdVxK, h]

theorem exec_ldVxK_of_some {s : State} {k : Nat} (x : Reg) (h : s.lastKeyDown = some k) :
    exec (.ldVxK x) s = completeNext (s.setV x (BitVec.ofNat 8 k)) := by
  rw [exec_ldVxK, execLdVxK, h]

/-- Settles O40: by what the scan finds, the Cycle only answers Waiting, or is one register write, of the highest index
that is down. -/
theorem keyWaitTakesTheHighestKey : Obligations.KeyWaitTakesTheHighestKey := by
  intro x s
  refine ⟨fun hup => exec_ldVxK_of_none x (lastKeyDown_eq_none hup), fun k hdown habove => ?_⟩
  rw [exec_ldVxK_of_some x (lastKeyDown_eq_some hdown habove), completeNext_setV]

end Sys2Proof
end

section
/-! The host's transactions on the keypad and the display (R153 to R155). -/

namespace Sys2Proof
open Machine

/-! ### The transactions, by the writes they make -/

theorem transact_keySet (k : Nat) (pressed : Bool) (s : State) :
    transact (.keySet k pressed) s = .next ((s.setKey k pressed).respond .silent) := rfl

theorem transact_displayRead (s : State) : transact .displayRead s = .next (s.respond (.display s.fb)) := rfl

theorem transact_redrawTake (s : State) :
    transact .redrawTake s = .next ((s.setRedraw false).respond (.redraw s.redraw)) := rfl

/-! ### The writes, as whole states -/

theorem respond_eq (s : State) (r : Response) : s.respond r = { s with response := r } := rfl

theorem setRedraw_eq (s : State) (b : Bool) : s.setRedraw b = { s with redraw := b } := rfl

theorem setKey_eq_of_lt (s : State) {k : Nat} (pressed : Bool) (hk : k < 16) :
    s.setKey k pressed = { s with key := s.key.set k pressed } := by
  rw [State.setKey, dif_pos hk]

/-! ### The obligations -/

/-- Settles O44: an index below 16 writes its own flag of the keypad; any other index writes nothing. -/
theorem keySetChangesOneFlag : Obligations.KeySetChangesOneFlag := by
  intro k pressed s
  refine ⟨fun hk => ?_, fun hk => ?_⟩
  · rw [transact_keySet, setKey_eq_of_lt s pressed hk, respond_eq]
  · rw [transact_keySet, State.setKey_of_not_lt s k pressed (Nat.not_lt_of_le hk), respond_eq]

/-- Settles O45: DisplayRead only answers; RedrawTake answers with the flag as it stood before its one write. -/
theorem displayReadAndRedrawTake : Obligations.DisplayReadAndRedrawTake := by
  intro s
  refine ⟨?_, ?_⟩
  · rw [transact_displayRead, respond_eq]
  · rw [transact_redrawTake, setRedraw_eq, respond_eq]

end Sys2Proof
end

section
/-! The decoder and the encoder undo each other (R63 to R66, R71); the decoder against the opcode map (R64) and the
table of the unassigned words (R68). -/

namespace Sys2Proof

/-! ### From the instruction to its word and back -/

theorem extractLsb'_fieldNNN (op : Word) : (fieldNNN op).extractLsb' 0 8 = fieldNN op :=
  BitVec.extractLsb'_extractLsb'_of_le (by decide)

theorem decodeGroup0_of_ne {op : Word} (hE0 : fieldNN op ≠ 0xE0#8) (hEE : fieldNN op ≠ 0xEE#8) :
    decodeGroup0 op = .sys (fieldNNN op) := by
  unfold decodeGroup0
  split
  · contradiction
  · contradiction
  · rfl

theorem decodeWord_sys {nnn : Imm12} (h : sysLowByteFree nnn = true) :
    decodeWord (wordA 0x0#4 nnn) = .ok (.sys nnn) := by
  have hnn : nnn.extractLsb' 0 8 = fieldNN (wordA 0x0#4 nnn) := by
    rw [← extractLsb'_fieldNNN, fieldNNN_wordA]
  obtain ⟨hE0, hEE⟩ : fieldNN (wordA 0x0#4 nnn) ≠ 0xE0#8 ∧ fieldNN (wordA 0x0#4 nnn) ≠ 0xEE#8 := by
    simpa [sysLowByteFree, hnn] using h
  simp [decodeWord, decodeGroup0_of_ne hE0 hEE]

theorem decodeWord_encode {i : Instr} (h : i.wellFormed = true) : decodeWord (encode i) = .ok i := by
  cases i with
  | sys nnn => exact decodeWord_sys h
  | cls | ret => simp [encode, decodeWord, decodeGroup0]
  | ldReg | orReg | andReg | xorReg | addReg | subReg | shr | subnReg | shl =>
    simp [encode, decodeWord, decodeGroup8]
  | skp | sknp => simp [encode, decodeWord, decodeGroupE]
  | ldVxDT | ldVxK | ldDTVx | ldSTVx | addI | ldF | ldB | stRegs | ldRegs =>
    simp [encode, decodeWord, decodeGroupF]
  | _ => simp [encode, decodeWord]

theorem decode_bytesOfWord_append (op : Word) (rest : List Byte) :
    decode (bytesOfWord op ++ rest) = (decodeWord op).map fun i => (i, rest) := by
  simp [bytesOfWord, decode, wordOfBytes_bytes]

/-- Settles O1: by the format of each constructor's word; the bytes are the word's, the high byte first. -/
theorem decodeOfEncode : Obligations.DecodeOfEncode := by
  intro i h
  refine ⟨decodeWord_encode h, fun rest => ?_⟩
  rw [encodeBytes, decode_bytesOfWord_append, decodeWord_encode h]
  rfl

/-! ### From the word to its instruction and back -/

section
variable {op : Word} {top : Nibble} (hTop : fieldTop op = top)
include hTop

theorem wordA_of_fields : wordA top (fieldNNN op) = op := by
  subst hTop
  exact (BitVec.extractLsb'_append_extractLsb'_eq_extractLsb' (x := op) (start₁ := 0) (len₁ := 12) (len₂ := 4)
    rfl).trans BitVec.extractLsb'_eq_self

theorem wordXI_of_fields {nn : Byte} (hnn : fieldNN op = nn) : wordXI top (fieldX op) nn = op := by
  rw [wordXI, ← hnn, ← fieldNNN_eq_append_fieldNN, wordA_of_fields hTop]

theorem wordXYN_of_fields {n : Nibble} (hn : fieldN op = n) : wordXYN top (fieldX op) (fieldY op) n = op := by
  rw [wordXYN, ← hn, ← fieldNN_eq_append, wordXI_of_fields hTop rfl]

end

theorem encode_decodeGroup0 {op : Word} (hTop : fieldTop op = 0x0#4) :
    (decodeGroup0 op).wellFormed = true ∧ encode (decodeGroup0 op) = op := by
  unfold decodeGroup0
  split
  next hnn => exact ⟨rfl, wordXI_of_fields hTop hnn⟩
  next hnn => exact ⟨rfl, wordXI_of_fields hTop hnn⟩
  next hE0 hEE =>
    refine ⟨?_, wordA_of_fields hTop⟩
    simpa [Instr.wellFormed, sysLowByteFree, extractLsb'_fieldNNN] using ⟨hE0, hEE⟩

theorem encode_decodeGroup8 {op : Word} {i : Instr} (hTop : fieldTop op = 0x8#4) (h : decodeGroup8 op = .ok i) :
    i.wellFormed = true ∧ encode i = op := by
  unfold decodeGroup8 at h
  split at h
  case h_10 => nomatch h
  all_goals next hn =>
    cases h
    exact ⟨rfl, wordXYN_of_fields hTop hn⟩

theorem encode_decodeGroupE {op : Word} {i : Instr} (hTop : fieldTop op = 0xE#4) (h : decodeGroupE op = .ok i) :
    i.wellFormed = true ∧ encode i = op := by
  unfold decodeGroupE at h
  split at h
  case h_3 => nomatch h
  all_goals next hnn =>
    cases h
    exact ⟨rfl, wordXI_of_fields hTop hnn⟩

theorem encode_decodeGroupF {op : Word} {i : Instr} (hTop : fieldTop op = 0xF#4) (h : decodeGroupF op = .ok i) :
    i.wellFormed = true ∧ encode i = op := by
  unfold decodeGroupF at h
  split at h
  case h_10 => nomatch h
  all_goals next hnn =>
    cases h
    exact ⟨rfl, wordXI_of_fields hTop hnn⟩

/-- Settles O2: the fields that each line of the decoder takes, put together again in its format, are the whole word. -/
theorem encodeOfDecode : Obligations.EncodeOfDecode := by
  intro op i h
  unfold decodeWord at h
  split at h
  case h_1 hTop =>
    cases h
    exact encode_decodeGroup0 hTop
  case h_9 hTop => exact encode_decodeGroup8 hTop h
  case h_15 hTop => exact encode_decodeGroupE hTop h
  case h_16 hTop => exact encode_decodeGroupF hTop h
  case h_17 => nomatch h
  -- The lines of format A, then those of XI, then those of XYN.
  case h_2 hTop | h_3 hTop | h_11 hTop | h_12 hTop =>
    cases h
    exact ⟨rfl, wordA_of_fields hTop⟩
  case h_4 hTop | h_5 hTop | h_7 hTop | h_8 hTop | h_13 hTop =>
    cases h
    exact ⟨rfl, wordXI_of_fields hTop rfl⟩
  case h_6 hTop | h_10 hTop | h_14 hTop =>
    cases h
    exact ⟨rfl, wordXYN_of_fields hTop rfl⟩

/-! ### The rows of the opcode map, by the fields they test -/

theorem and_F000_eq (op : Word) : op &&& 0xF000#16 = wordA (fieldTop op) 0#12 := by
  rw [← Laws.and_maskTop _ (fieldNNN op), wordA_of_fields rfl]

theorem and_F0FF_eq (op : Word) : op &&& 0xF0FF#16 = wordXI (fieldTop op) 0 (fieldNN op) := by
  have h := Laws.and_maskTopNN (fieldTop op) (regBits (fieldX op)) (fieldNN op)
  rwa [← wordXI, wordXI_of_fields rfl rfl] at h

theorem and_F00F_eq (op : Word) : op &&& 0xF00F#16 = wordXYN (fieldTop op) 0 0 (fieldN op) := by
  have h := Laws.and_maskTopN (fieldTop op) (regBits (fieldX op)) (regBits (fieldY op)) (fieldN op)
  rwa [← wordXI, ← wordXYN, wordXYN_of_fields rfl rfl] at h

@[simp] theorem and_F000_eq_iff {op p : Word} (hp : p &&& 0xF000#16 = p) :
    op &&& 0xF000#16 = p ↔ fieldTop op = fieldTop p := by
  rw [← hp, and_F000_eq, and_F000_eq, fieldTop_wordA]
  exact ⟨fun h => by simpa using congrArg fieldTop h, fun h => by rw [h]⟩

@[simp] theorem and_F0FF_eq_iff {op p : Word} (hp : p &&& 0xF0FF#16 = p) :
    op &&& 0xF0FF#16 = p ↔ fieldTop op = fieldTop p ∧ fieldNN op = fieldNN p := by
  rw [← hp, and_F0FF_eq, and_F0FF_eq, fieldTop_wordXI, fieldNN_wordXI]
  exact ⟨fun h => ⟨by simpa using congrArg fieldTop h, by simpa using congrArg fieldNN h⟩,
    fun ⟨h, h'⟩ => by rw [h, h']⟩

@[simp] theorem and_F00F_eq_iff {op p : Word} (hp : p &&& 0xF00F#16 = p) :
    op &&& 0xF00F#16 = p ↔ fieldTop op = fieldTop p ∧ fieldN op = fieldN p := by
  rw [← hp, and_F00F_eq, and_F00F_eq, fieldTop_wordXYN, fieldN_wordXYN]
  exact ⟨fun h => ⟨by simpa using congrArg fieldTop h, by simpa using congrArg fieldN h⟩,
    fun ⟨h, h'⟩ => by rw [h, h']⟩

@[simp] theorem fieldTop_ofNat (k : Nat) : fieldTop (BitVec.ofNat 16 k) = BitVec.ofNat 4 (k / 0x1000) := by
  apply BitVec.eq_of_toNat_eq
  simp only [toNat_fieldTop, BitVec.toNat_ofNat]
  omega

@[simp] theorem fieldN_ofNat (k : Nat) : fieldN (BitVec.ofNat 16 k) = BitVec.ofNat 4 k := by
  apply BitVec.eq_of_toNat_eq
  simp only [toNat_fieldN, BitVec.toNat_ofNat]
  omega

@[simp] theorem fieldNN_ofNat (k : Nat) : fieldNN (BitVec.ofNat 16 k) = BitVec.ofNat 8 k := by
  apply BitVec.eq_of_toNat_eq
  simp only [toNat_fieldNN, BitVec.toNat_ofNat]
  omega

/-! The next lemmas split along the lines of the decoder; the fields that a line fixes, or rules out, decide each row's
test. -/

theorem row_decodeGroup0 {op : Word} (hTop : fieldTop op = 0x0#4) :
    some (decodeGroup0 op).rowNumber = (firstRow op).map OpcodeRow.number := by
  unfold decodeGroup0
  split <;> simp_all [firstRow, opcodeRows, Instr.rowNumber]

theorem row_decodeGroup8 {op : Word} (hTop : fieldTop op = 0x8#4) :
    (decodeGroup8 op).toOption.map Instr.rowNumber = (firstRow op).map OpcodeRow.number := by
  unfold decodeGroup8
  split <;> simp_all [firstRow, opcodeRows, Except.toOption, Instr.rowNumber]

theorem row_decodeGroupE {op : Word} (hTop : fieldTop op = 0xE#4) :
    (decodeGroupE op).toOption.map Instr.rowNumber = (firstRow op).map OpcodeRow.number := by
  unfold decodeGroupE
  split <;> simp_all [firstRow, opcodeRows, Except.toOption, Instr.rowNumber]

theorem row_decodeGroupF {op : Word} (hTop : fieldTop op = 0xF#4) :
    (decodeGroupF op).toOption.map Instr.rowNumber = (firstRow op).map OpcodeRow.number := by
  unfold decodeGroupF
  split <;> simp_all [firstRow, opcodeRows, Except.toOption, Instr.rowNumber]

theorem row_decodeWord (op : Word) :
    (decodeWord op).toOption.map Instr.rowNumber = (firstRow op).map OpcodeRow.number := by
  unfold decodeWord
  split
  case h_1 hTop => exact row_decodeGroup0 hTop
  case h_9 hTop => exact row_decodeGroup8 hTop
  case h_15 hTop => exact row_decodeGroupE hTop
  case h_16 hTop => exact row_decodeGroupF hTop
  all_goals simp_all [firstRow, opcodeRows, Except.toOption, Instr.rowNumber]

/-- Settles O3: in each line of the decoder the fields decide every row's test, up to the first that matches. -/
theorem decodeFollowsOpcodeMap : Obligations.DecodeFollowsOpcodeMap := by
  intro op
  rw [← row_decodeWord]
  cases decodeWord op <;> rfl

/-! ### The unknown words -/

theorem decodeGroup8_cases (op : Word) :
    (decodeGroup8 op = .error (.unknownOpcode op) ∧ (fieldN op).toNat ∈ [0x8, 0x9, 0xA, 0xB, 0xC, 0xD, 0xF]) ∨
      ((∃ i, decodeGroup8 op = .ok i) ∧ (fieldN op).toNat ∉ [0x8, 0x9, 0xA, 0xB, 0xC, 0xD, 0xF]) := by
  unfold decodeGroup8
  split
  case h_10 =>
    refine .inl ⟨rfl, ?_⟩
    have hlt := (fieldN op).isLt
    simp only [← BitVec.toNat_inj, BitVec.toNat_ofNat, imp_false, List.mem_cons, List.not_mem_nil] at *
    omega
  all_goals exact .inr ⟨⟨_, rfl⟩, by simp [*]⟩

theorem decodeGroupE_cases (op : Word) :
    (decodeGroupE op = .error (.unknownOpcode op) ∧ (fieldNN op).toNat ∉ [0x9E, 0xA1]) ∨
      ((∃ i, decodeGroupE op = .ok i) ∧ (fieldNN op).toNat ∈ [0x9E, 0xA1]) := by
  unfold decodeGroupE
  split
  case h_3 => exact .inl ⟨rfl, by simp_all [← BitVec.toNat_inj]⟩
  all_goals exact .inr ⟨⟨_, rfl⟩, by simp [*]⟩

theorem decodeGroupF_cases (op : Word) :
    (decodeGroupF op = .error (.unknownOpcode op) ∧
      (fieldNN op).toNat ∉ [0x07, 0x0A, 0x15, 0x18, 0x1E, 0x29, 0x33, 0x55, 0x65]) ∨
      ((∃ i, decodeGroupF op = .ok i) ∧
        (fieldNN op).toNat ∈ [0x07, 0x0A, 0x15, 0x18, 0x1E, 0x29, 0x33, 0x55, 0x65]) := by
  unfold decodeGroupF
  split
  case h_10 => exact .inl ⟨rfl, by simp_all [← BitVec.toNat_inj]⟩
  all_goals exact .inr ⟨⟨_, rfl⟩, by simp [*]⟩

theorem decodeWord_cases (op : Word) :
    (fieldTop op = 0x8#4 ∧ decodeWord op = decodeGroup8 op) ∨ (fieldTop op = 0xE#4 ∧ decodeWord op = decodeGroupE op) ∨
      (fieldTop op = 0xF#4 ∧ decodeWord op = decodeGroupF op) ∨
      (fieldTop op ≠ 0x8#4 ∧ fieldTop op ≠ 0xE#4 ∧ fieldTop op ≠ 0xF#4 ∧ ∃ i, decodeWord op = .ok i) := by
  unfold decodeWord
  split
  case h_17 =>
    have hlt := (fieldTop op).isLt
    simp only [← BitVec.toNat_inj, BitVec.toNat_ofNat, imp_false] at *
    omega
  all_goals simp [*]

/-- Settles O4: outside the three groups every word decodes; in each of them the low nibble or byte decides. -/
theorem unknownWordsAreThoseOfTheGroups : Obligations.UnknownWordsAreThoseOfTheGroups := by
  intro op
  simp only [← toNat_fieldTop, ← toNat_fieldN, ← toNat_fieldNN]
  obtain ⟨hTop, h⟩ | ⟨hTop, h⟩ | ⟨hTop, h⟩ | ⟨h8, hE, hF, h⟩ := decodeWord_cases op
  · obtain ⟨hd, hn⟩ | ⟨⟨i, hd⟩, hn⟩ := decodeGroup8_cases op <;> simp [hTop, h, hd, hn]
  · obtain ⟨hd, hnn⟩ | ⟨⟨i, hd⟩, hnn⟩ := decodeGroupE_cases op <;> simp [hTop, h, hd, hnn]
  · obtain ⟨hd, hnn⟩ | ⟨⟨i, hd⟩, hnn⟩ := decodeGroupF_cases op <;> simp [hTop, h, hd, hnn]
  · rw [if_neg ?_]
    · exact h
    · simp only [ne_eq, ← BitVec.toNat_inj, BitVec.toNat_ofNat] at h8 hE hF
      omega

end Sys2Proof
end

section
/-! What an instruction does, said once: it raises the fault of the table (R170), or waits for a key (R142), or
completes with its effect and the pc of the table (R18). Every statement about all instructions rests on this. -/

namespace Sys2Proof
open Machine

/-- Whether the Cycle of an instruction returns Waiting (R142). -/
def waits (i : Instr) (s : State) : Bool :=
  match i with
  | .ldVxK _ => s.lastKeyDown.isNone
  | _ => false

/-- The `n` bytes from `base`, ascending. -/
def bytesFrom (s : State) (base n : Nat) : List Byte := (List.range n).map fun k => s.readByte (base + k)

/-- What an instruction whose Cycle returns Ok leaves, but for pc and the response. -/
def effect (i : Instr) (s : State) : State :=
  match i with
  | .cls _ => (s.setFb blank).setRedraw true
  | .ret _ => { s with sp := Fin.ofNat 17 (s.sp.val - 1) }
  | .call _ => { s with stack := s.stack.setIfInBounds s.sp.val s.pc, sp := Fin.ofNat 17 (s.sp.val + 1) }
  | .sys _ | .jp _ | .jpV0 _ => s
  | .seImm _ _ | .sneImm _ _ | .seReg _ _ _ | .sneReg _ _ _ | .skp _ | .sknp _ => s
  | .ldImm x nn => s.setV x nn
  | .addImm x nn => s.setV x (addBytes (s.getV x) nn)
  | .ldReg x y => s.setV x (s.getV y)
  | .orReg x y => s.setV x (s.getV x ||| s.getV y)
  | .andReg x y => s.setV x (s.getV x &&& s.getV y)
  | .xorReg x y => s.setV x (s.getV x ^^^ s.getV y)
  | .addReg x y => (s.setV x (addBytes (s.getV x) (s.getV y))).setFlag (carryOf (s.getV x) (s.getV y))
  | .subReg x y => (s.setV x (subBytes (s.getV x) (s.getV y))).setFlag (greaterOf (s.getV x) (s.getV y))
  | .shr x _ => (s.setV x (shiftRight1 (s.getV x))).setFlag (lowBitOf (s.getV x))
  | .subnReg x y => (s.setV x (subBytes (s.getV y) (s.getV x))).setFlag (greaterOf (s.getV y) (s.getV x))
  | .shl x _ => (s.setV x (shiftLeft1 (s.getV x))).setFlag (highBitOf (s.getV x))
  | .rnd x nn => s.countDraw.setV x (s.randByte &&& nn)
  | .drw x y n =>
    let p := blitOf x y (bytesFrom s s.base n.toNat) s
    ((s.setFb p.fb).setFlag p.collision).setRedraw true
  | .ldVxDT x => s.setV x s.dt
  | .ldVxK x => s.setV x (BitVec.ofNat 8 (s.lastKeyDown.getD 0))
  | .ldDTVx x => s.setDt (s.getV x)
  | .ldSTVx x => s.setSt (s.getV x)
  | .ldI nnn => s.setIndex (immAddr nnn)
  | .addI x => s.setIndex (BitVec.ofNat 16 (indexSum x s))
  | .ldF x => s.setIndex (glyphAddr (s.getV x))
  | .ldB x => s.setMem (s.mem.writeList s.base (digits (s.getV x)))
  | .stRegs x => s.setMem (s.mem.writeList s.base (s.regsUpTo x))
  | .ldRegs x => { s with v := (s.loadRegs (bytesFrom s s.base (countOf x))).v }

/-! ### The accesses that may fault, by the conditions of the fault table -/

theorem length_regsUpTo (s : State) (x : Reg) : (s.regsUpTo x).length = x.val + 1 := by
  simp only [State.regsUpTo, countOf, List.length_take, Vector.length_toList]
  omega

theorem length_bytesFrom (s : State) (base n : Nat) : (bytesFrom s base n).length = n := by simp [bytesFrom]

theorem readBytes_eq (s : State) (base n : Nat) :
    s.readBytes base n = (rangeCondition base n).elim (.ok (bytesFrom s base n)) .error := by
  show _ = (rangeFault base n).elim _ _
  unfold State.readBytes
  cases rangeFault base n <;> rfl

theorem writeBytes_eq (s : State) (base : Nat) (bs : List Byte) :
    s.writeBytes base bs = (rangeCondition base bs.length).elim (.ok (s.setMem (s.mem.writeList base bs))) .error := by
  show _ = (rangeFault base bs.length).elim _ _
  unfold State.writeBytes
  cases rangeFault base bs.length <;> rfl

theorem keyOf_eq (s : State) (x : Reg) :
    s.keyOf x = (keyCondition (s.getV x)).elim (.ok (s.keyDown (s.getV x).toNat)) .error := by
  unfold State.keyOf keyCondition
  split
  · rw [BitVec.ofNat_toNat]
    rfl
  · rfl

theorem push_eq (s : State) (w : Word) :
    s.push w = (if s.sp.val = 16 then some ⟨.stackOverflow, s.pc⟩ else none).elim
      (.ok { s with stack := s.stack.setIfInBounds s.sp.val w, sp := Fin.ofNat 17 (s.sp.val + 1) }) .error := by
  split
  next h => exact s.push_of_full w h
  next h =>
    have hlt : s.sp.val < 16 := by omega
    have hstack : s.stack.set s.sp.val w = s.stack.setIfInBounds s.sp.val w := by
      simp [Vector.setIfInBounds, Vector.set, Array.setIfInBounds, hlt]
    rw [s.push_of_lt w hlt, hstack]
    congr
    exact (Nat.mod_eq_of_lt (by omega)).symm

theorem pop_eq (s : State) :
    s.pop = (if s.sp.val = 0 then some ⟨.stackUnderflow, s.pc⟩ else none).elim
      (.ok (s.stack.toList.getD (s.sp.val - 1) 0#16, { s with sp := Fin.ofNat 17 (s.sp.val - 1) })) .error := by
  split
  next h => exact s.pop_of_empty h
  next h =>
    have hlt : s.sp.val - 1 < s.stack.toList.length := by simp; omega
    rw [s.pop_of_pos (by omega), List.getD_eq_getElem _ _ hlt, Vector.getElem_toList]
    congr
    exact (Nat.mod_eq_of_lt (by omega)).symm

/-- Loading registers changes nothing but the registers. -/
theorem loadRegs_eq (s : State) (bs : List Byte) : s.loadRegs bs = { s with v := (s.loadRegs bs).v } := by
  rw [State.loadRegs]

theorem keyDown_eq_getD (s : State) (k : Nat) : s.keyDown k = s.key.toList.getD k false := by
  unfold State.keyDown
  split
  next h => rw [List.getD_eq_getElem _ _ (by simpa using h), Vector.getElem_toList]
  next h => rw [List.getD_eq_default _ _ (by simpa using h)]

theorem orRaise_elim {α : Type} (c : Option FaultInfo) (a : α) (s : State) (k : α → Out) :
    orRaise (c.elim (.ok a) .error) s k = c.elim (k a) (raise · s) := by
  cases c <;> rfl

theorem completeSkipIf_eq_skipPc (s : State) (c : Bool) (p : Prop) [Decidable p] (h : c = true ↔ p) :
    completeSkipIf c s = .next { s with pc := skipPc p s, response := .ok } := by
  rw [completeSkipIf_eq, skipPc]
  simp only [h]

/-! ### The three ways an instruction ends -/

/-- The next state of an instruction whose Cycle returns Ok. -/
def okState (i : Instr) (s : State) : State := { effect i s with pc := pcWhenOk i s, response := .ok }

/-- The next state of an instruction. -/
def nextState (i : Instr) (s : State) : State :=
  (faultCondition i s).elim (if waits i s then s.respond .waiting else okState i s) (afterFault · s)

theorem raise_eq_afterFault (f : FaultInfo) (s : State) : raise f s = .next (afterFault f s) := rfl

theorem exec_eq_elim (i : Instr) (s : State) :
    exec i s =
      (faultCondition i s).elim (.next (if waits i s then s.respond .waiting else okState i s)) (raise · s) := by
  cases i with
  | call nnn =>
    show orRaise (s.push s.pc) s _ = _
    rw [push_eq, orRaise_elim, immAddr_eq_ofNat]
    rfl
  | ret ign =>
    show orRaise s.pop s _ = _
    rw [pop_eq, orRaise_elim]
    rfl
  | drw x y n =>
    show orRaise (s.readBytes s.base n.toNat) s _ = _
    rw [readBytes_eq, orRaise_elim]
    rfl
  | ldRegs x =>
    show orRaise (s.readBytes s.base (countOf x)) s _ = _
    rw [readBytes_eq, orRaise_elim, loadRegs_eq]
    rfl
  | ldB x =>
    show orRaise (s.writeBytes s.base (digits (s.getV x))) s _ = _
    rw [writeBytes_eq, orRaise_elim]
    rfl
  | stRegs x =>
    show orRaise (s.writeBytes s.base (s.regsUpTo x)) s _ = _
    rw [writeBytes_eq, orRaise_elim, length_regsUpTo]
    rfl
  | skp x =>
    show orRaise (s.keyOf x) s _ = _
    rw [keyOf_eq, orRaise_elim, completeSkipIf_eq_skipPc s _ _ (by rw [keyDown_eq_getD])]
    rfl
  | sknp x =>
    show orRaise (s.keyOf x) s _ = _
    rw [keyOf_eq, orRaise_elim, completeSkipIf_eq_skipPc s _ _ (by rw [keyDown_eq_getD, Bool.not_eq_true'])]
    rfl
  | addI x =>
    show (if 0xFFF < indexSum x s then _ else _) = Option.elim (if 0xFFF < indexSum x s then some _ else none) _ _
    split <;> rfl
  | seImm x nn => exact completeSkipIf_eq_skipPc s _ _ beq_iff_eq
  | sneImm x nn => exact completeSkipIf_eq_skipPc s _ _ bne_iff_ne
  | seReg x y => exact completeSkipIf_eq_skipPc s _ _ beq_iff_eq
  | sneReg x y => exact completeSkipIf_eq_skipPc s _ _ bne_iff_ne
  | ldVxK x =>
    show execLdVxK x s = _
    unfold execLdVxK
    cases h : s.lastKeyDown <;> simp [waits, h, okState, effect] <;> rfl
  | jp nnn =>
    rw [exec_jp, complete_setPc, immAddr_eq_ofNat]
    rfl
  | jpV0 nnn =>
    rw [exec_jpV0, complete_setPc, offsetTarget_eq_ofNat]
    rfl
  | _ => rfl

/-- The one law of all instructions. -/
theorem exec_eq (i : Instr) (s : State) : exec i s = .next (nextState i s) := by
  rw [exec_eq_elim, nextState]
  cases faultCondition i s <;> rfl

theorem nextState_of_fault {i : Instr} {s : State} {f : FaultInfo} (h : faultCondition i s = some f) :
    nextState i s = afterFault f s := by
  rw [nextState, h]
  rfl

theorem nextState_of_waits {i : Instr} {s : State} (hf : faultCondition i s = none) (hw : waits i s = true) :
    nextState i s = s.respond .waiting := by
  rw [nextState, hf, hw]
  rfl

theorem nextState_of_ok {i : Instr} {s : State} (hf : faultCondition i s = none) (hw : waits i s = false) :
    nextState i s = okState i s := by
  rw [nextState, hf, hw]
  rfl

theorem nextState_cases (i : Instr) (s : State) :
    (∃ f, faultCondition i s = some f ∧ nextState i s = afterFault f s) ∨
    (faultCondition i s = none ∧ nextState i s = s.respond .waiting) ∨
    (faultCondition i s = none ∧ nextState i s = okState i s) := by
  cases hf : faultCondition i s with
  | some f => exact .inl ⟨f, rfl, nextState_of_fault hf⟩
  | none =>
    cases hw : waits i s with
    | true => exact .inr (.inl ⟨rfl, nextState_of_waits hf hw⟩)
    | false => exact .inr (.inr ⟨rfl, nextState_of_ok hf hw⟩)

theorem eq_nextState {i : Instr} {s t : State} (h : exec i s = .next t) : t = nextState i s := by
  rw [exec_eq] at h
  injection h with h
  exact h.symm

theorem exec_of_fault {i : Instr} {s : State} {f : FaultInfo} (h : faultCondition i s = some f) :
    exec i s = .next (afterFault f s) := by
  rw [exec_eq, nextState_of_fault h]

theorem exec_of_ok {i : Instr} {s : State} (hf : faultCondition i s = none) (hw : waits i s = false) :
    exec i s = .next (okState i s) := by
  rw [exec_eq, nextState_of_ok hf hw]

/-- What the fault, the wait and the effect all keep, the instruction keeps. -/
theorem nextState_keeps {α : Type} {i : Instr} {s : State} (get : State → α)
    (hget : ∀ (u : State) (pc : Word) (flt : BitVec 7) (r : Response),
      get { u with pc := pc, flt := flt, response := r } = get u)
    (heffect : get (effect i s) = get s) : get (nextState i s) = get s := by
  obtain ⟨f, -, h⟩ | ⟨-, h⟩ | ⟨-, h⟩ := nextState_cases i s <;> rw [h]
  · exact hget s s.pc _ _
  · exact hget s s.pc s.flt _
  · exact (hget (effect i s) _ (effect i s).flt _).trans heffect

/-! ### What the effect of an instruction keeps -/

theorem effect_flt (i : Instr) (s : State) : (effect i s).flt = s.flt := by cases i <;> simp [effect]

theorem effect_key (i : Instr) (s : State) : (effect i s).key = s.key := by cases i <;> simp [effect]

theorem effect_schedule (i : Instr) (s : State) : (effect i s).schedule = s.schedule := by cases i <;> simp [effect]

theorem effect_driver (i : Instr) (s : State) : (effect i s).driver = s.driver := by cases i <;> simp [effect]

section
variable {i : Instr} {s : State}

theorem effect_index (hldI : ∀ nnn, i ≠ .ldI nnn) (haddI : ∀ x, i ≠ .addI x) (hldF : ∀ x, i ≠ .ldF x) :
    (effect i s).index = s.index := by
  cases i with
  | ldI nnn => exact absurd rfl (hldI nnn)
  | addI x => exact absurd rfl (haddI x)
  | ldF x => exact absurd rfl (hldF x)
  | _ => simp [effect]

theorem effect_dt (h : ∀ x, i ≠ .ldDTVx x) : (effect i s).dt = s.dt := by
  cases i with
  | ldDTVx x => exact absurd rfl (h x)
  | _ => simp [effect]

theorem effect_st (h : ∀ x, i ≠ .ldSTVx x) : (effect i s).st = s.st := by
  cases i with
  | ldSTVx x => exact absurd rfl (h x)
  | _ => simp [effect]

theorem effect_fb (hcls : ∀ ign, i ≠ .cls ign) (hdrw : ∀ x y n, i ≠ .drw x y n) : (effect i s).fb = s.fb := by
  cases i with
  | cls ign => exact absurd rfl (hcls ign)
  | drw x y n => exact absurd rfl (hdrw x y n)
  | _ => simp [effect]

theorem effect_redraw (hcls : ∀ ign, i ≠ .cls ign) (hdrw : ∀ x y n, i ≠ .drw x y n) :
    (effect i s).redraw = s.redraw := by
  cases i with
  | cls ign => exact absurd rfl (hcls ign)
  | drw x y n => exact absurd rfl (hdrw x y n)
  | _ => simp [effect]

/-- No instruction clears REDRAW: the two that write it set it. -/
theorem effect_redraw_of_set (h : s.redraw = true) : (effect i s).redraw = s.redraw := by
  cases i with
  | cls | drw => exact h.symm
  | _ => simp [effect]

theorem effect_draws (h : ∀ x nn, i ≠ .rnd x nn) : (effect i s).draws = s.draws := by
  cases i with
  | rnd x nn => exact absurd rfl (h x nn)
  | _ => simp [effect]

theorem effect_stack (h : ∀ nnn, i ≠ .call nnn) : (effect i s).stack = s.stack := by
  cases i with
  | call nnn => exact absurd rfl (h nnn)
  | _ => simp [effect]

theorem effect_sp (hcall : ∀ nnn, i ≠ .call nnn) (hret : ∀ ign, i ≠ .ret ign) : (effect i s).sp = s.sp := by
  cases i with
  | call nnn => exact absurd rfl (hcall nnn)
  | ret ign => exact absurd rfl (hret ign)
  | _ => simp [effect]

theorem effect_readByte {a : Nat} (hldB : ∀ x, i = .ldB x → a < s.base ∨ s.base + 2 < a)
    (hst : ∀ x, i = .stRegs x → a < s.base ∨ s.base + x.val < a) : (effect i s).readByte a = s.readByte a := by
  cases i with
  | ldB x =>
    have ha := hldB x rfl
    have hlen : (digits (s.getV x)).length = 3 := rfl
    exact (Memory.read_writeList _ _ _ _).trans (if_neg (by omega))
  | stRegs x =>
    have ha := hst x rfl
    have hlen := length_regsUpTo s x
    exact (Memory.read_writeList _ _ _ _).trans (if_neg (by omega))
  | _ => rfl

theorem getV_setV_of_ne {x r : Reg} (b : Byte) (h : (r == x) = false) : (s.setV x b).getV r = s.getV r := by
  rw [State.getV_setV, if_neg (beq_eq_false_iff_ne.1 h)]

theorem getV_setFlag_of_ne {r : Reg} (c : Bool) (h : r ≠ 15) : (s.setFlag c).getV r = s.getV r := by
  rw [State.getV_setFlag, if_neg h]

theorem effect_getV {r : Reg} (hdest : isDest i r = false) (hflag : r ≠ 15 ∨ writesFlag i = false) :
    (effect i s).getV r = s.getV r := by
  cases i with
  | ldImm | addImm | ldReg | orReg | andReg | xorReg | ldVxDT | ldVxK => exact getV_setV_of_ne _ hdest
  | rnd => exact getV_setV_of_ne (s := s.countDraw) _ hdest
  | addReg | subReg | shr | subnReg | shl =>
    have hr : r ≠ 15 := hflag.resolve_right Bool.noConfusion
    exact (getV_setFlag_of_ne _ hr).trans (getV_setV_of_ne _ hdest)
  | drw x y n =>
    have hr : r ≠ 15 := hflag.resolve_right Bool.noConfusion
    exact getV_setFlag_of_ne (s := s.setFb _) _ hr
  | ldRegs x =>
    have hxr : x.val < r.val := by simpa [isDest] using hdest
    refine (State.getV_loadRegs s _ r).trans (List.getD_eq_default _ _ ?_)
    rw [length_bytesFrom]
    exact hxr
  | _ => rfl

end

/-! ### Statements about every instruction -/

/-- Settles O52: by the three ways an instruction ends, of which only the fault moves FLT. -/
theorem faultsArePreciseAndListed : Obligations.FaultsArePreciseAndListed := by
  intro i s
  refine ⟨fun f hf => exec_of_fault hf, fun hf => ⟨nextState i s, exec_eq i s, ?_⟩⟩
  obtain ⟨f, hf', -⟩ | ⟨-, h⟩ | ⟨-, h⟩ := nextState_cases i s
  · rw [hf] at hf'
    nomatch hf'
  · rw [h]
    exact ⟨rfl, .inr rfl⟩
  · rw [h]
    exact ⟨effect_flt i s, .inl rfl⟩

/-- Settles O54: the Cycle returns Ok only where the instruction completes, and pc is then the table's. -/
theorem pcFollowsTheTable : Obligations.PcFollowsTheTable := by
  intro i s t h
  rw [eq_nextState h]
  obtain ⟨f, -, h⟩ | ⟨-, h⟩ | ⟨-, h⟩ := nextState_cases i s <;> rw [h]
  · exact ⟨nofun, fun _ => rfl⟩
  · exact ⟨nofun, fun _ => rfl⟩
  · exact ⟨fun _ => rfl, fun hr => absurd rfl hr⟩

/-- Settles O55: by the destinations and the flag of each effect. -/
theorem registersKeptOutsideDestinations : Obligations.RegistersKeptOutsideDestinations := by
  intro i s t r h hdest hflag
  rw [eq_nextState h]
  exact nextState_keeps (·.getV r) (fun _ _ _ _ => rfl) (effect_getV hdest hflag)

/-- Settles O56: by the two effects that store bytes. -/
theorem memoryKeptOutsideStores : Obligations.MemoryKeptOutsideStores := by
  intro i s t a h hldB hst
  rw [eq_nextState h]
  exact nextState_keeps (·.readByte a) (fun _ _ _ _ => rfl) (effect_readByte hldB hst)

/-- Settles O57: by the two effects that touch the stack. -/
theorem stackKeptOutsideCallAndRet : Obligations.StackKeptOutsideCallAndRet := by
  intro i s t h
  rw [eq_nextState h]
  exact ⟨fun hcall => nextState_keeps State.stack (fun _ _ _ _ => rfl) (effect_stack hcall),
    fun hcall hret => nextState_keeps State.sp (fun _ _ _ _ => rfl) (effect_sp hcall hret)⟩

/-- Settles O58: field by field, by the effects that touch it. -/
theorem specialStateKeptOutsideItsInstructions : Obligations.SpecialStateKeptOutsideItsInstructions := by
  intro i s t h
  rw [eq_nextState h]
  refine ⟨fun hldI haddI hldF => ?_, fun hdt => ?_, fun hst => ?_, fun hcls hdrw => ⟨?_, ?_⟩, fun hset => ?_, ?_,
    fun hrnd => ?_, ?_, ?_⟩
  · exact nextState_keeps State.index (fun _ _ _ _ => rfl) (effect_index hldI haddI hldF)
  · exact nextState_keeps State.dt (fun _ _ _ _ => rfl) (effect_dt hdt)
  · exact nextState_keeps State.st (fun _ _ _ _ => rfl) (effect_st hst)
  · exact nextState_keeps State.fb (fun _ _ _ _ => rfl) (effect_fb hcls hdrw)
  · exact nextState_keeps State.redraw (fun _ _ _ _ => rfl) (effect_redraw hcls hdrw)
  · exact (nextState_keeps State.redraw (fun _ _ _ _ => rfl) (effect_redraw_of_set hset)).trans hset
  · exact nextState_keeps State.key (fun _ _ _ _ => rfl) (effect_key i s)
  · exact nextState_keeps State.draws (fun _ _ _ _ => rfl) (effect_draws hrnd)
  · exact nextState_keeps State.schedule (fun _ _ _ _ => rfl) (effect_schedule i s)
  · exact nextState_keeps State.driver (fun _ _ _ _ => rfl) (effect_driver i s)

/-! ### What no instruction reads -/

theorem faultCondition_visible (i : Instr) (s : State) : faultCondition i s.visible = faultCondition i s := by
  cases i <;> rfl

theorem waits_visible (i : Instr) (s : State) : waits i s.visible = waits i s := by cases i <;> rfl

theorem okState_visible (i : Instr) (s : State) : (okState i s.visible).visible = (okState i s).visible := by
  cases i <;> rfl

/-- Blotting the hidden state out before the instruction changes nothing of what is visible after it. -/
theorem nextState_visible (i : Instr) (s : State) :
    (nextState i s.visible).visible = (nextState i s).visible ∧
      (nextState i s.visible).response = (nextState i s).response := by
  simp only [nextState, faultCondition_visible, waits_visible]
  cases faultCondition i s with
  | some f => exact ⟨rfl, rfl⟩
  | none =>
    cases waits i s with
    | true => exact ⟨rfl, rfl⟩
    | false => exact ⟨okState_visible i s, rfl⟩

/-- Settles O59: both next states are, as far as they are visible, that of the one blotted state. -/
theorem noInstructionReadsTheHiddenState : Obligations.NoInstructionReadsTheHiddenState := by
  intro i s s' t t' hvis h h'
  obtain ⟨hv, hr⟩ := nextState_visible i s
  obtain ⟨hv', hr'⟩ := nextState_visible i s'
  rw [eq_nextState h, eq_nextState h', ← hv, ← hv', ← hr, ← hr', hvis]
  exact ⟨rfl, rfl⟩

end Sys2Proof
end

section
/-! The Cycle and the other transactions, each by its next state (46_host_transactions.md). -/

namespace Sys2Proof
open Machine

/-! ### The Cycle, by what it fetches -/

theorem step_of_issue {p s : State} {t : Transaction} (h : p.issue = (t, s)) : step p = transact t s := by
  rw [step, h]

theorem cycle_of_gt {s : State} (h : 0xFFE < s.pc.toNat) : cycle s = .next (afterFault ⟨.fetchRange, s.pc⟩ s) := by
  rw [cycle, fetch_of_gt h, orRaise_error, raise_eq_afterFault]

section
variable {s : State} (hpc : s.pc.toNat ≤ 0xFFE)
include hpc

theorem cycle_of_decode_ok {i : Instr}
    (h : decodeWord (wordOfBytes (s.readByte s.pc.toNat) (s.readByte (s.pc.toNat + 1))) = .ok i) :
    cycle s = exec i s := by
  rw [cycle, fetch_of_le hpc, orRaise_ok, h]

theorem cycle_of_decode_error {why : DecodeReject}
    (h : decodeWord (wordOfBytes (s.readByte s.pc.toNat) (s.readByte (s.pc.toNat + 1))) = .error why) :
    cycle s = execUnknown (wordOfBytes (s.readByte s.pc.toNat) (s.readByte (s.pc.toNat + 1))) s := by
  rw [cycle, fetch_of_le hpc, orRaise_ok, h]

end

theorem execUnknown_eq (op : Word) (s : State) :
    execUnknown op s = .next { s with pc := s.pc + 2, response := .unknown op } := rfl

/-- Settles O7: the fetch is in range, so the Cycle is the instruction. -/
theorem stepRunsDecodedInstruction : Obligations.StepRunsDecodedInstruction := by
  intro s i hpc h
  have hcycle : cycle s = exec i s := cycle_of_decode_ok hpc h
  exact ⟨fun hs hd => (step_of_cycling hs hd).trans hcycle, fun p hp => (step_of_issue hp).trans hcycle⟩

/-- Settles O8: the fetch is out of range, and its fault is the next state. -/
theorem fetchBeyondMemoryFaults : Obligations.FetchBeyondMemoryFaults := by
  intro p s hp hpc
  exact (step_of_issue hp).trans (cycle_of_gt hpc)

/-- Settles O9: the word does not decode, so the Cycle only advances and reports it. -/
theorem unknownOpcodeIsAReportedNoOp : Obligations.UnknownOpcodeIsAReportedNoOp := by
  intro p s why hp hpc op h
  exact (step_of_issue hp).trans ((cycle_of_decode_error hpc h).trans (execUnknown_eq op s))

/-! ### The other transactions -/

/-- What a Tick leaves (R152). -/
def tickState (s : State) : State :=
  { s with dt := countDown s.dt, st := countDown s.st, response := .soundEdge (s.st == 1#8) }

theorem transact_tick (s : State) : transact .tick s = .next (tickState s) := rfl

theorem transact_reset (s : State) : transact .reset s = .next (resetState s) := rfl

theorem transact_loadROM_of_gt {bytes : List Byte} (s : State) (h : 3584 < bytes.length) :
    transact (.loadROM bytes) s =
      .next (afterFault ⟨.loadRange, BitVec.ofNat 16 (min bytes.length 0xFFFF)⟩ s) :=
  if_pos h

theorem transact_loadROM_of_le {bytes : List Byte} (s : State) (h : bytes.length ≤ 3584) :
    transact (.loadROM bytes) s = .next { s with mem := s.mem.writeList 0x200 bytes, response := .ok } :=
  if_neg (Nat.not_lt.2 h)

theorem toNat_countDown (b : Byte) : (countDown b).toNat = b.toNat - 1 := by
  unfold countDown
  split
  next h => rw [h]; rfl
  next h => bv_omega

theorem soundEdge_eq (b : Byte) : (b == 1#8) = decide (b.toNat = 1) := by
  rw [Bool.eq_iff_iff, beq_iff_eq, decide_eq_true_iff, ← BitVec.toNat_inj]
  rfl

/-- Settles O42: each timer counts down on its own, and the edge is told from ST before. -/
theorem tickCountsDown : Obligations.TickCountsDown := by
  intro s
  refine ⟨_, transact_tick s, ?_, toNat_countDown s.dt, toNat_countDown s.st⟩
  rw [← soundEdge_eq]
  rfl

/-- Settles O46: the image is written byte by byte from 0x200, or is too long and raises the fault. -/
theorem loadRomCopiesTheImage : Obligations.LoadRomCopiesTheImage := by
  intro bytes s
  refine ⟨fun h => ⟨_, transact_loadROM_of_le s h, rfl, fun k hk => ?_, fun a ha => ?_⟩,
    fun h => transact_loadROM_of_gt s h⟩
  · refine (Memory.read_writeList _ _ _ _).trans ?_
    rw [if_pos (by omega), Nat.add_sub_cancel_left, List.getD_eq_getElem]
  · exact (Memory.read_writeList _ _ _ _).trans (if_neg (by omega))

/-- Settles O49: the one write of Reset is the reset state, but for the host's own fields and the draws. -/
theorem resetTransactionResetsEverything : Obligations.ResetTransactionResetsEverything := transact_reset

/-! ### The reset state -/

theorem readByte_reset (a : Nat) : State.reset.readByte a = glyphs.getD a 0#8 := rfl

theorem readByte_reset_of_le {a : Nat} (h : 0x050 ≤ a) : State.reset.readByte a = 0#8 := by
  rw [readByte_reset]
  exact List.getD_eq_default _ _ h

/-- Settles O47: the memory lists nothing, so the glyph table ends where its 80 bytes do. -/
theorem resetValuesOfTheSource : Obligations.ResetValuesOfTheSource := by
  refine ⟨rfl, fun r => ?_, fun k => ?_, rfl, rfl, cellAt_blank, fun k => ?_,
    fun a ha => readByte_reset_of_le ha, fun a _ => readByte_reset a⟩
  · simp [State.getV, State.reset]
  · simp [State.reset]
  · simp [State.reset]

/-- Settles O48: each value stands in the definition of the reset state. -/
theorem resetValuesDecided : Obligations.ResetValuesDecided := ⟨rfl, rfl, rfl, rfl, rfl, rfl, rfl, rfl⟩

/-! ### What every transaction does -/

/-- `Performs s t u`: the transaction `t` on the state `s` leaves `u`. -/
inductive Performs (s : State) : Transaction → State → Prop
  | fault (t : Transaction) (f : FaultInfo) : Performs s t (afterFault f s)
  | exec (i : Instr) (hpc : s.pc.toNat ≤ 0xFFE) : Performs s .cycle (nextState i s)
  | unknown (op : Word) (hpc : s.pc.toNat ≤ 0xFFE) :
    Performs s .cycle { s with pc := s.pc + 2, response := .unknown op }
  | tick : Performs s .tick (tickState s)
  | keySet (k : Nat) (pressed : Bool) : Performs s (.keySet k pressed) ((s.setKey k pressed).respond .silent)
  | displayRead : Performs s .displayRead { s with response := .display s.fb }
  | redrawTake : Performs s .redrawTake { s with redraw := false, response := .redraw s.redraw }
  | loadROM (bytes : List Byte) (hlen : bytes.length ≤ 3584) :
    Performs s (.loadROM bytes) { s with mem := s.mem.writeList 0x200 bytes, response := .ok }
  | reset : Performs s .reset (resetState s)

/-- The one law of all transactions. -/
theorem transact_performs (t : Transaction) (s : State) : ∃ u, transact t s = .next u ∧ Performs s t u := by
  cases t with
  | cycle =>
    obtain ⟨-, h⟩ | ⟨hpc, op, -, ⟨i, -, h⟩ | ⟨why, -, h⟩⟩ := cycle_cases s
    · exact ⟨_, h.trans (raise_eq_afterFault _ s), .fault _ _⟩
    · exact ⟨_, h.trans (exec_eq i s), .exec i hpc⟩
    · exact ⟨_, h, .unknown op hpc⟩
  | tick => exact ⟨_, rfl, .tick⟩
  | keySet k pressed => exact ⟨_, rfl, .keySet k pressed⟩
  | displayRead => exact ⟨_, rfl, .displayRead⟩
  | redrawTake => exact ⟨_, rfl, .redrawTake⟩
  | loadROM bytes =>
    obtain h | h := Nat.lt_or_ge 3584 bytes.length
    · exact ⟨_, transact_loadROM_of_gt s h, .fault _ _⟩
    · exact ⟨_, transact_loadROM_of_le s h, .loadROM bytes h⟩
  | reset => exact ⟨_, rfl, .reset⟩

theorem Performs.of_transact {t : Transaction} {s u : State} (h : transact t s = .next u) : Performs s t u := by
  obtain ⟨u', h', hp⟩ := transact_performs t s
  rw [h] at h'
  cases h'
  exact hp

/-- Settles O11: a step is a transaction, and each of them answers a next state. -/
theorem stepNeverStops : Obligations.StepNeverStops := by
  intro s
  obtain ⟨u, h, -⟩ := transact_performs s.issue.1 s.issue.2
  exact ⟨u, h⟩

/-! ### The host's order -/

theorem Performs.host {t : Transaction} {s u : State} (h : Performs s t u) :
    u.schedule = s.schedule ∧ u.driver = s.driver := by
  cases h with
  | exec i =>
    exact ⟨nextState_keeps State.schedule (fun _ _ _ _ => rfl) (effect_schedule i s),
      nextState_keeps State.driver (fun _ _ _ _ => rfl) (effect_driver i s)⟩
  | keySet k pressed => exact ⟨State.setKey_schedule s k pressed, State.setKey_driver s k pressed⟩
  | _ => exact ⟨rfl, rfl⟩

/-- The history of the state after a run is what is left of the history before it. -/
theorem history_of_run (k : Nat) {s t : State} (h : Host.Core.run core k s = .next t) (j : Nat) :
    t.history j = s.history (k + j) := by
  induction k generalizing s with
  | zero =>
    cases h
    rw [Nat.zero_add]
  | succ k ih =>
    obtain ⟨u, hstep⟩ := stepNeverStops s
    obtain ⟨hs, hd⟩ := (Performs.of_transact hstep).host
    rw [run_succ_of_next k hstep] at h
    rw [ih h, State.history_succ hs hd]
    congr 1
    omega

/-- Settles O10: by the three ways to issue a transaction, and by induction over the run for the history. -/
theorem transactionsRunInTheHostsOrder : Obligations.TransactionsRunInTheHostsOrder := by
  intro s
  refine ⟨fun t rest => step_of_cons, step_of_cycling, fun turn => step_of_free, fun k t h => ?_⟩
  rw [← State.history_zero, history_of_run k h 0, Nat.add_zero]

/-- Settles O43: by induction over the Ticks that stand in the schedule. -/
theorem repeatedTicksFloorAtZero : Obligations.RepeatedTicksFloorAtZero := by
  intro n
  induction n with
  | zero =>
    intro s hs
    refine ⟨s, rfl, ?_, rfl, rfl⟩
    cases s
    cases hs
    rfl
  | succ n ih =>
    intro s hs
    have hstep := (step_of_cons (hs.trans List.replicate_succ)).trans (transact_tick _)
    obtain ⟨t, hrun, ht, hdt, hst⟩ := ih (tickState { s with schedule := List.replicate n .tick }) rfl
    refine ⟨t, (run_succ_of_next n hstep).trans hrun, ht, ?_, ?_⟩
    · rw [hdt, tickState, toNat_countDown, Nat.sub_sub, Nat.add_comm]
    · rw [hst, tickState, toNat_countDown, Nat.sub_sub, Nat.add_comm]

/-! ### The fault register -/

theorem and_or_self_left (a b : BitVec 7) : a &&& (a ||| b) = a := by
  ext i hi
  simpa using Or.inl

theorem nextState_flt (i : Instr) (s : State) : s.flt &&& (nextState i s).flt = s.flt := by
  obtain ⟨f, -, h⟩ | ⟨-, h⟩ | ⟨-, h⟩ := nextState_cases i s <;> rw [h]
  · exact and_or_self_left _ _
  · exact BitVec.and_self
  · exact (congrArg (s.flt &&& ·) (effect_flt i s)).trans BitVec.and_self

theorem Performs.flt {t : Transaction} {s u : State} (h : Performs s t u) (ht : t ≠ .reset) :
    s.flt &&& u.flt = s.flt := by
  cases h with
  | fault => exact and_or_self_left _ _
  | exec i => exact nextState_flt i s
  | keySet k pressed => exact (congrArg (s.flt &&& ·) (State.setKey_flt s k pressed)).trans BitVec.and_self
  | reset => exact absurd rfl ht
  | _ => exact BitVec.and_self

theorem issue_flt (s : State) : s.issue.2.flt = s.flt := by rw [State.issue_frame]

/-- Settles O53: a transaction adds a bit of FLT or leaves it as it is, unless it is Reset. -/
theorem onlyResetClearsFlt : Obligations.OnlyResetClearsFlt := by
  intro s t hissue h
  rw [← issue_flt]
  exact (Performs.of_transact h).flt hissue

/-! ### The invariant -/

theorem Machine.State.Inv.congr {s u : State} (h : s.Inv) (hmem : u.mem = s.mem) (hindex : u.index = s.index)
    (hpc : u.pc = s.pc) (hstack : u.stack = s.stack) : u.Inv :=
  ⟨hmem ▸ h.memCanonical, hindex ▸ h.indexInSpace, hpc ▸ h.pcBound, hstack ▸ h.slotsFetchable⟩

theorem rangeCondition_eq_none_iff {base n : Nat} : rangeCondition base n = none ↔ n = 0 ∨ base + n ≤ 0x1000 := by
  unfold rangeCondition
  split <;> simp <;> omega

theorem effect_mem_wf {i : Instr} {s : State} (hf : faultCondition i s = none) (h : s.mem.wf = true) :
    (effect i s).mem.wf = true := by
  cases i with
  | ldB x =>
    have hfits := rangeCondition_eq_none_iff.1 hf
    exact Memory.wf_writeList _ _ h (.inr (hfits.resolve_left (by decide)))
  | stRegs x =>
    have hfits := rangeCondition_eq_none_iff.1 hf
    refine Memory.wf_writeList _ _ h (.inr ?_)
    rw [length_regsUpTo]
    exact hfits.resolve_left (Nat.succ_ne_zero _)
  | _ => simpa [effect] using h

theorem glyphAddr_eq_ofNat (b : Byte) : glyphAddr b = BitVec.ofNat 16 (b.toNat * 5) := by
  rw [glyphAddr, zextByte_eq_ofNat, BitVec.ofNat_mul]

theorem effect_index_le {i : Instr} {s : State} (hf : faultCondition i s = none) (h : s.index.toNat ≤ 0xFFF) :
    (effect i s).index.toNat ≤ 0xFFF := by
  cases i with
  | ldI nnn =>
    show (immAddr nnn).toNat ≤ 0xFFF
    rw [immAddr_eq_ofNat, BitVec.toNat_ofNat]
    omega
  | addI x =>
    have hsum : indexSum x s ≤ 0xFFF := by simpa [faultCondition, indexSum] using hf
    show (BitVec.ofNat 16 (indexSum x s)).toNat ≤ 0xFFF
    rw [BitVec.toNat_ofNat]
    omega
  | ldF x =>
    show (glyphAddr (s.getV x)).toNat ≤ 0xFFF
    rw [glyphAddr_eq_ofNat, BitVec.toNat_ofNat]
    exact (Nat.mod_le _ _).trans (by omega)
  | _ => simpa [effect] using h

theorem effect_slots_le {i : Instr} {s : State} (hpc : s.pc.toNat ≤ 0xFFE)
    (h : ∀ k : Fin 16, s.stack[k].toNat ≤ 0xFFE) (k : Fin 16) : (effect i s).stack[k].toNat ≤ 0xFFE := by
  cases i with
  | call nnn =>
    show ((s.stack.setIfInBounds s.sp.val s.pc)[k.val]).toNat ≤ 0xFFE
    rw [Vector.getElem_setIfInBounds]
    split
    · exact hpc
    · exact h k
  | _ => simpa [effect] using h k

theorem skipPc_le (c : Prop) [Decidable c] {s : State} (hpc : s.pc.toNat ≤ 0xFFE) : (skipPc c s).toNat ≤ 0x10FE := by
  unfold skipPc
  split <;> bv_omega

theorem returnAddress_le {s : State} (h : ∀ k : Fin 16, s.stack[k].toNat ≤ 0xFFE) (n : Nat) :
    (s.stack.toList.getD n 0#16).toNat ≤ 0xFFE := by
  rw [List.getD_eq_getElem?_getD]
  by_cases hn : n < 16
  · simpa [hn] using h ⟨n, hn⟩
  · simp [hn]

/-- The bound of R18: the largest is `JP V0` with both operands at their largest. -/
theorem pcWhenOk_le {s : State} (i : Instr) (hpc : s.pc.toNat ≤ 0xFFE)
    (hslots : ∀ k : Fin 16, s.stack[k].toNat ≤ 0xFFE) : (pcWhenOk i s).toNat ≤ 0x10FE := by
  cases i with
  | jp nnn | call nnn =>
    show (BitVec.ofNat 16 nnn.toNat).toNat ≤ 0x10FE
    rw [BitVec.toNat_ofNat]
    omega
  | jpV0 nnn =>
    show (BitVec.ofNat 16 (nnn.toNat + (s.getV 0).toNat)).toNat ≤ 0x10FE
    rw [BitVec.toNat_ofNat]
    omega
  | ret ign =>
    have hslot := returnAddress_le hslots (s.sp.val - 1)
    show (s.stack.toList.getD (s.sp.val - 1) 0#16 + 2#16).toNat ≤ 0x10FE
    bv_omega
  | seImm | sneImm | seReg | sneReg | skp | sknp => exact skipPc_le _ hpc
  | _ =>
    show (s.pc + 2#16).toNat ≤ 0x10FE
    bv_omega

theorem nextState_inv {s : State} (i : Instr) (hpc : s.pc.toNat ≤ 0xFFE) (h : s.Inv) : (nextState i s).Inv := by
  obtain ⟨f, -, hn⟩ | ⟨-, hn⟩ | ⟨hf, hn⟩ := nextState_cases i s <;> rw [hn]
  · exact h.congr rfl rfl rfl rfl
  · exact h.congr rfl rfl rfl rfl
  · exact ⟨effect_mem_wf hf h.memCanonical, effect_index_le hf h.indexInSpace, pcWhenOk_le i hpc h.slotsFetchable,
      effect_slots_le hpc h.slotsFetchable⟩

theorem resetState_inv (s : State) : (resetState s).Inv where
  memCanonical := Memory.wf_nil
  indexInSpace := Nat.zero_le _
  pcBound := (by decide : (0x200#16).toNat ≤ 0x10FE)
  slotsFetchable k := by simp [resetState, State.reset]

theorem Performs.inv {t : Transaction} {s u : State} (hp : Performs s t u) (h : s.Inv) : u.Inv := by
  cases hp with
  | exec i hpc => exact nextState_inv i hpc h
  | unknown op hpc =>
    have hpc' : (s.pc + 2).toNat ≤ 0x10FE := by bv_omega
    exact ⟨h.memCanonical, h.indexInSpace, hpc', h.slotsFetchable⟩
  | keySet k pressed =>
    exact h.congr (State.setKey_mem s k pressed) (State.setKey_index s k pressed) (State.setKey_pc s k pressed)
      (State.setKey_stack s k pressed)
  | loadROM bytes hlen =>
    have hwf := Memory.wf_writeList bytes 0x200 h.memCanonical (.inr (by omega))
    exact ⟨hwf, h.indexInSpace, h.pcBound, h.slotsFetchable⟩
  | reset => exact resetState_inv s
  | _ => exact h.congr rfl rfl rfl rfl

theorem issue_inv {s : State} (h : s.Inv) : s.issue.2.Inv := by
  rw [State.issue_frame]
  exact h.congr rfl rfl rfl rfl

/-- Settles O50: issuing a transaction moves only the host's own fields, and every transaction keeps the invariant. -/
theorem stepKeepsInvariant : Obligations.StepKeepsInvariant := fun _ _ h hstep =>
  (Performs.of_transact hstep).inv (issue_inv h)

/-- Settles O51: the reset state is what Reset leaves of itself. -/
theorem resetMeetsInvariant : Obligations.ResetMeetsInvariant := resetState_inv State.reset

/-! ### The unloaded core (R191) -/

theorem decodeWord_zero : decodeWord (wordOfBytes 0#8 0#8) = .ok (.sys 0) := by decide

/-- Behind the glyph table an unloaded core holds the no-op `SYS 0`. -/
theorem step_unloaded {pc : Word} (r : Response) (hlo : 0x050 ≤ pc.toNat) (hhi : pc.toNat ≤ 0xFFE) :
    step { State.reset with pc := pc, response := r } =
      .next { State.reset with pc := pc + 2, response := .ok } := by
  have hdecode : decodeWord (wordOfBytes (State.reset.readByte pc.toNat) (State.reset.readByte (pc.toNat + 1))) =
      .ok (.sys 0) := by
    rw [readByte_reset_of_le hlo, readByte_reset_of_le (by omega), decodeWord_zero]
  exact (stepRunsDecodedInstruction { State.reset with pc := pc, response := r } _ hhi hdecode).1 rfl rfl

theorem step_unloaded_beyond (flt : BitVec 7) (r : Response) :
    step { State.reset with pc := 0x1000, flt := flt, response := r } =
      .next { State.reset with
        pc := 0x1000, flt := flt ||| 0b0000001#7, response := .fault ⟨.fetchRange, 0x1000⟩ } :=
  fetchBeyondMemoryFaults _ { State.reset with pc := 0x1000, flt := flt, response := r } rfl
    (by decide : 0xFFE < (0x1000 : Word).toNat)

theorem run_unloaded {n : Nat} (h : n < 1792) :
    Host.Core.run core (n + 1) State.reset =
      .next { State.reset with pc := BitVec.ofNat 16 (0x200 + 2 * (n + 1)), response := .ok } := by
  induction n with
  | zero => exact (run_succ_eq_step 0 rfl).trans (step_unloaded .silent (by decide) (by decide))
  | succ n ih =>
    have hpc : (BitVec.ofNat 16 (0x200 + 2 * (n + 1))).toNat = 0x200 + 2 * (n + 1) := by
      rw [BitVec.toNat_ofNat]
      omega
    have hnext : BitVec.ofNat 16 (0x200 + 2 * (n + 1 + 1)) = BitVec.ofNat 16 (0x200 + 2 * (n + 1)) + 2 :=
      BitVec.ofNat_add (0x200 + 2 * (n + 1)) 2
    rw [hnext]
    exact (run_succ_eq_step (n + 1) (ih (by omega))).trans (step_unloaded .ok (by omega) (by omega))

/-- Settles O60: by induction over the no-ops, and then over the faults, which set a bit that is set already. -/
theorem unloadedCoreRunsNoOpsThenFaults : Obligations.UnloadedCoreRunsNoOpsThenFaults := by
  refine fun n => ⟨run_unloaded, fun h => ?_⟩
  induction n, h using Nat.le_induction with
  | base => exact (run_succ_eq_step 1792 (run_unloaded (n := 1791) (by decide))).trans (step_unloaded_beyond 0 .ok)
  | succ n _ ih => exact (run_succ_eq_step (n + 1) ih).trans (step_unloaded_beyond 0b0000001 _)

end Sys2Proof
end

section
/-! Single instructions of the control flow, the registers, the timers and the keypad: each by the way it ends, and what
that leaves as a whole state. -/

namespace Sys2Proof
open Machine

/-- Settles O6: closed words, decoded. -/
theorem sampleWordsDecode : Obligations.SampleWordsDecode := by
  refine ⟨?_, ?_, ?_, ?_, ?_, ?_, ?_, ?_, ?_, ?_, ?_, ?_, ?_⟩ <;> decide

/-! ### Control flow -/

/-- Settles O12: the effect is none, and pc is the table's. -/
theorem sysOnlyAdvances : Obligations.SysOnlyAdvances := fun nnn _ => exec_of_ok (i := .sys nnn) rfl rfl

/-- Settles O18: no effect; the table's pc takes the comparison. -/
theorem registerSkips : Obligations.RegisterSkips := fun x y nn ign _ =>
  ⟨exec_of_ok (i := .seImm x nn) rfl rfl, exec_of_ok (i := .sneImm x nn) rfl rfl,
    exec_of_ok (i := .seReg x y ign) rfl rfl, exec_of_ok (i := .sneReg x y ign) rfl rfl⟩

theorem pop_of_succ {s : State} {n : Nat} (hn : n < 16) (hsp : s.sp.val = n + 1) :
    s.pop = .ok (s.stack[n], { s with sp := ⟨n, by omega⟩ }) := by
  have hpred : s.sp.val - 1 = n := by omega
  rw [s.pop_of_pos (by omega)]
  simp only [hpred]

/-- Settles O13: by what a pop does; an empty stack is the instruction's fault. -/
theorem returnPopsTheCallSite : Obligations.ReturnPopsTheCallSite := by
  refine fun ign s => ⟨fun n hn hsp => ?_, fun hsp => exec_of_fault (i := .ret ign) (if_pos hsp)⟩
  show orRaise s.pop s _ = _
  rw [pop_of_succ hn hsp]
  rfl

/-- Settles O14: by what a push does; a full stack is the instruction's fault. -/
theorem callPushesItsOwnAddress : Obligations.CallPushesItsOwnAddress := by
  refine fun nnn s => ⟨fun n hn hsp => ?_, fun hsp => exec_of_fault (i := .call nnn) (if_pos hsp)⟩
  subst hsp
  show orRaise (s.push s.pc) s _ = _
  rw [s.push_of_lt s.pc hn, ← immAddr_eq_ofNat]
  rfl

/-- Settles O15: the slot that RET pops is the one that CALL pushed. -/
theorem returnUndoesCall : Obligations.ReturnUndoesCall := by
  intro nnn ign s t u hsp hcall hret
  rw [(callPushesItsOwnAddress nnn s).1 s.sp.val hsp rfl] at hcall
  cases hcall
  rw [(returnPopsTheCallSite ign _).1 s.sp.val hsp rfl] at hret
  cases hret
  simp

/-! ### Register writes without a flag -/

/-- Settles O21: the effect is one register write. -/
theorem copyRegister : Obligations.CopyRegister := fun x y _ => exec_of_ok (i := .ldReg x y) rfl rfl

/-- Settles O27: the effect is one register write, and one draw is counted. -/
theorem randomIsMaskedDraw : Obligations.RandomIsMaskedDraw := fun x nn _ => exec_of_ok (i := .rnd x nn) rfl rfl

/-- Settles O41: each effect is one write, of a register or of a timer. -/
theorem timerMoves : Obligations.TimerMoves := fun x _ =>
  ⟨exec_of_ok (i := .ldVxDT x) rfl rfl, exec_of_ok (i := .ldDTVx x) rfl rfl, exec_of_ok (i := .ldSTVx x) rfl rfl⟩

/-! ### The index register -/

/-- Settles O29: the condition of the fault table is the bound on the sum. -/
theorem addIndexFaultsAboveTheSpace : Obligations.AddIndexFaultsAboveTheSpace := fun x _ =>
  ⟨fun h => exec_of_ok (i := .addI x) (if_neg (Nat.not_lt.2 h)) rfl, fun h => exec_of_fault (i := .addI x) (if_pos h)⟩

theorem exec_ldF (x : Reg) (s : State) : exec (.ldF x) s = completeNext (s.setIndex (glyphAddr (s.getV x))) := rfl

/-- Settles O30: the 16-bit product is the exact one. -/
theorem fontAddressIsFiveTimesVx : Obligations.FontAddressIsFiveTimesVx := by
  intro x s
  rw [exec_ldF, completeNext_setIndex, glyphAddr_eq_ofNat]

/-! ### The key skips -/

theorem keyCondition_of_le {b : Byte} (h : b.toNat ≤ 15) : keyCondition b = none := if_neg (Nat.not_lt.2 h)

theorem keyCondition_of_gt {b : Byte} (h : 15 < b.toNat) :
    keyCondition b = some ⟨.keyIndex, BitVec.ofNat 16 b.toNat⟩ := if_pos h

theorem getD_key (s : State) {k : Nat} (h : k < 16) : s.key.toList.getD k false = s.key[k] := by
  rw [← keyDown_eq_getD, State.keyDown_of_lt s h]

/-- Settles O39: the key is in range and the table's pc takes its flag, or the index is the instruction's fault. -/
theorem keySkips : Obligations.KeySkips := by
  rintro x k s rfl
  refine ⟨fun h => ?_, fun h => ⟨exec_of_fault (i := .skp x) (keyCondition_of_gt h),
    exec_of_fault (i := .sknp x) (keyCondition_of_gt h)⟩⟩
  have hnone : keyCondition (s.getV x) = none := keyCondition_of_le (Nat.le_of_lt_succ h)
  rw [← getD_key s h]
  exact ⟨exec_of_ok (i := .skp x) hnone rfl, exec_of_ok (i := .sknp x) hnone rfl⟩

/-! ### The results and flags of the arithmetic, as numbers (R106 to R110) -/

theorem toNat_addBytes (a b : Byte) : (addBytes a b).toNat = (a.toNat + b.toNat) % 256 := BitVec.toNat_ofNat _ _

theorem toNat_subBytes (a b : Byte) : (subBytes a b).toNat = (a.toNat + 256 - b.toNat) % 256 := by
  rw [subBytes, BitVec.toNat_ofInt]
  omega

theorem toNat_shiftRight1 (a : Byte) : (shiftRight1 a).toNat = a.toNat / 2 := by
  rw [shiftRight1, BitVec.toNat_ushiftRight, Nat.shiftRight_one]

theorem toNat_shiftLeft1 (a : Byte) : (shiftLeft1 a).toNat = a.toNat * 2 % 256 := by
  rw [shiftLeft1, BitVec.toNat_shiftLeft, Nat.shiftLeft_eq]

theorem toNat_flagByte (c : Bool) : (flagByte c).toNat = c.toNat := by cases c <;> rfl

theorem flagByte_decide (p : Prop) [Decidable p] : flagByte (decide p) = if p then 1 else 0 := by
  simp only [flagByte, decide_eq_true_eq]
  rfl

theorem toNat_flag_eq_one_iff (p : Prop) [Decidable p] : (flagByte (decide p)).toNat = 1 ↔ p := by
  simp [toNat_flagByte]

theorem toNat_carry (a b : Byte) : (flagByte (carryOf a b)).toNat = (a.toNat + b.toNat) / 256 := by
  rw [carryOf, flagByte_decide]
  split
  next h => show 1 = _; omega
  next h => show 0 = _; omega

theorem toNat_lowBit (a : Byte) : (flagByte (lowBitOf a)).toNat = a.toNat % 2 := by
  rw [toNat_flagByte, lowBitOf, BitVec.getLsbD, Nat.toNat_testBit, Nat.pow_zero, Nat.div_one]

theorem toNat_highBit (a : Byte) : (flagByte (highBitOf a)).toNat = a.toNat / 128 := by
  rw [toNat_flagByte, highBitOf, BitVec.getLsbD, Nat.toNat_testBit]
  omega

theorem byte_eq_ofNat {b : Byte} {n : Nat} (h : b.toNat = n) : b = BitVec.ofNat 8 n := by
  rw [← h, BitVec.ofNat_toNat, BitVec.setWidth_eq]

/-! ### Register writes with a flag -/

/-- How every write of a result and then of the flag ends. -/
theorem completeNext_setV_setFlag (s : State) (x : Reg) (b : Byte) (c : Bool) :
    completeNext ((s.setV x b).setFlag c) =
      .next { s with v := (s.v.set x b).set 15 (flagByte c), pc := s.pc + 2, response := .ok } :=
  completeNext_eq ((s.setV x b).setFlag c)

theorem exec_addReg (x y : Reg) (s : State) :
    exec (.addReg x y) s =
      completeNext ((s.setV x (addBytes (s.getV x) (s.getV y))).setFlag (carryOf (s.getV x) (s.getV y))) := rfl

theorem exec_subReg (x y : Reg) (s : State) :
    exec (.subReg x y) s =
      completeNext ((s.setV x (subBytes (s.getV x) (s.getV y))).setFlag (greaterOf (s.getV x) (s.getV y))) := rfl

theorem exec_subnReg (x y : Reg) (s : State) :
    exec (.subnReg x y) s =
      completeNext ((s.setV x (subBytes (s.getV y) (s.getV x))).setFlag (greaterOf (s.getV y) (s.getV x))) := rfl

theorem exec_shr (x y : Reg) (s : State) :
    exec (.shr x y) s = completeNext ((s.setV x (shiftRight1 (s.getV x))).setFlag (lowBitOf (s.getV x))) := rfl

theorem exec_shl (x y : Reg) (s : State) :
    exec (.shl x y) s = completeNext ((s.setV x (shiftLeft1 (s.getV x))).setFlag (highBitOf (s.getV x))) := rfl

/-- Settles O23: the sum and then its carry are written. -/
theorem addRegistersSetsCarry : Obligations.AddRegistersSetsCarry := by
  intro x y s sum
  rw [exec_addReg, completeNext_setV_setFlag, addBytes_eq_ofNat_mod, carryOf, flagByte_decide]

/-- Settles O24: the difference and then the comparison of the operands as they were are written. -/
theorem subtractionsSetStrictlyGreater : Obligations.SubtractionsSetStrictlyGreater := by
  intro x y s a b
  refine ⟨?_, ?_⟩
  · rw [exec_subReg, completeNext_setV_setFlag, byte_eq_ofNat (toNat_subBytes _ _), greaterOf, flagByte_decide]
  · rw [exec_subnReg, completeNext_setV_setFlag, byte_eq_ofNat (toNat_subBytes _ _), greaterOf, flagByte_decide]

/-- Settles O25: the shifted byte and then the bit it lost are written. -/
theorem shiftsPutTheLostBitInVF : Obligations.ShiftsPutTheLostBitInVF := by
  intro x y s a
  refine ⟨?_, ?_⟩
  · rw [exec_shr, completeNext_setV_setFlag, byte_eq_ofNat (toNat_shiftRight1 _), byte_eq_ofNat (toNat_lowBit _)]
  · rw [exec_shl, completeNext_setV_setFlag, byte_eq_ofNat (toNat_shiftLeft1 _), byte_eq_ofNat (toNat_highBit _)]

/-- What the registers hold after a write of a result and then of the flag: VF is the flag for every `x`. -/
theorem getV_of_setV_setFlag {i : Instr} {s : State} {x : Reg} {b : Byte} {c : Bool}
    (h : exec i s = completeNext ((s.setV x b).setFlag c)) :
    ∃ t, exec i s = .next t ∧ t.getV 15 = flagByte c ∧ (x ≠ 15 → t.getV x = b) ∧
      ∀ r, r ≠ x → r ≠ 15 → t.getV r = s.getV r := by
  have hget (r : Reg) : (((s.setV x b).setFlag c).advance.respond .ok).getV r =
      if r = 15 then flagByte c else if r = x then b else s.getV r := by
    simp [State.advance]
  refine ⟨_, h, ?_, fun hx => ?_, fun r hrx hr => ?_⟩
  · rw [hget, if_pos rfl]
  · rw [hget, if_neg hx, if_pos rfl]
  · rw [hget, if_neg hr, if_neg hrx]

/-- Settles O26: the same three facts for each of the five, with the result and the flag as numbers. -/
theorem flagIsWrittenLast : Obligations.FlagIsWrittenLast := by
  intro x y s a b
  obtain ⟨t₁, h₁, hf₁, hx₁, hr₁⟩ := getV_of_setV_setFlag (exec_addReg x y s)
  obtain ⟨t₂, h₂, hf₂, hx₂, hr₂⟩ := getV_of_setV_setFlag (exec_subReg x y s)
  obtain ⟨t₃, h₃, hf₃, hx₃, hr₃⟩ := getV_of_setV_setFlag (exec_shr x y s)
  obtain ⟨t₄, h₄, hf₄, hx₄, hr₄⟩ := getV_of_setV_setFlag (exec_subnReg x y s)
  obtain ⟨t₅, h₅, hf₅, hx₅, hr₅⟩ := getV_of_setV_setFlag (exec_shl x y s)
  refine ⟨t₁, t₂, t₃, t₄, t₅, h₁, ?_, h₂, ?_, h₃, ?_, h₄, ?_, h₅, ?_, fun hx => ⟨?_, ?_, ?_, ?_, ?_⟩, fun r hrx hr =>
    ⟨hr₁ r hrx hr, hr₂ r hrx hr, hr₃ r hrx hr, hr₄ r hrx hr, hr₅ r hrx hr⟩⟩
  · rw [hf₁, toNat_carry]
  · rw [hf₂, greaterOf, toNat_flag_eq_one_iff]
  · rw [hf₃, toNat_lowBit]
  · rw [hf₄, greaterOf, toNat_flag_eq_one_iff]
  · rw [hf₅, toNat_highBit]
  · rw [hx₁ hx, toNat_addBytes]
  · rw [hx₂ hx, toNat_subBytes]
  · rw [hx₃ hx, toNat_shiftRight1]
  · rw [hx₄ hx, toNat_subBytes]
  · rw [hx₅ hx, toNat_shiftLeft1]

end Sys2Proof
end

section
/-! The instructions that access memory from I on (R123 to R125, R131): the range in memory and out of it, and what is
stored, loaded and drawn. -/

namespace Sys2Proof
open Machine

/-! ### The range check -/

theorem rangeCondition_of_fits {base n : Nat} (h : base + n ≤ 0xFFF) : rangeCondition base (n + 1) = none :=
  rangeCondition_eq_none_iff.2 (.inr (Nat.succ_le_succ h))

/-- Out of range, the highest address is reported. -/
theorem rangeCondition_of_exceeds {base n : Nat} (h : 0xFFF < base + n) :
    rangeCondition base (n + 1) = some ⟨.memRange, BitVec.ofNat 16 (base + n)⟩ :=
  if_pos ⟨Nat.succ_pos n, h⟩

/-! ### Storing -/

/-- A store of bytes from I on, by the bytes stored. -/
theorem readByte_store {s t : State} {bs : List Byte} (ht : t.mem = s.mem.writeList s.base bs) :
    (∀ k (hk : k < bs.length), t.readByte (s.base + k) = bs[k]) ∧
      ∀ a, a < s.base ∨ s.base + bs.length ≤ a → t.readByte a = s.readByte a := by
  refine ⟨fun k hk => ?_, fun a ha => ?_⟩
  · rw [State.readByte, ht, Memory.read_writeList, if_pos (by omega), Nat.add_sub_cancel_left, List.getD_eq_getElem]
  · rw [State.readByte, ht, Memory.read_writeList, if_neg (by omega)]
    rfl

theorem getElem_regsUpTo {s : State} {x r : Reg} (h : r.val < (s.regsUpTo x).length) :
    (s.regsUpTo x)[r.val] = s.getV r := by
  simp [State.regsUpTo, State.getV]

/-- Settles O31: the three digits are the bytes stored. -/
theorem bcdStoresThreeDigits : Obligations.BcdStoresThreeDigits := by
  intro x s
  refine ⟨fun h => ?_, fun h => exec_of_fault (i := .ldB x) (rangeCondition_of_exceeds h)⟩
  obtain ⟨hstored, hkept⟩ := readByte_store (s := s) (t := okState (.ldB x) s) (bs := digits (s.getV x)) rfl
  have hlt := (s.getV x).isLt
  refine ⟨_, exec_of_ok (rangeCondition_of_fits h) rfl, rfl, ?_, ?_, ?_, fun a ha => hkept a ?_⟩
  · exact (congrArg _ (hstored 0 (by decide : 0 < 3))).trans (Nat.mod_eq_of_lt (by omega))
  · exact (congrArg _ (hstored 1 (by decide : 1 < 3))).trans (Nat.mod_eq_of_lt (by omega))
  · exact (congrArg _ (hstored 2 (by decide : 2 < 3))).trans (Nat.mod_eq_of_lt (by omega))
  · exact ha.imp_right (Nat.succ_le_of_lt)

/-- Settles O32: the registers up to `x` are the bytes stored. -/
theorem bulkStoreWritesRegisters : Obligations.BulkStoreWritesRegisters := by
  intro x s
  refine ⟨fun h => ?_, fun h => exec_of_fault (i := .stRegs x) (rangeCondition_of_exceeds h)⟩
  obtain ⟨hstored, hkept⟩ := readByte_store (s := s) (t := okState (.stRegs x) s) (bs := s.regsUpTo x) rfl
  rw [length_regsUpTo] at hkept
  refine ⟨_, exec_of_ok (rangeCondition_of_fits h) rfl, rfl, fun r hr => ?_, fun a ha => hkept a ha⟩
  have hlen : r.val < (s.regsUpTo x).length := by
    rw [length_regsUpTo]
    exact Nat.lt_succ_of_le hr
  rw [← getElem_regsUpTo hlen]
  exact hstored r.val hlen

/-! ### Loading -/

theorem getD_bytesFrom (s : State) (base : Nat) {n k : Nat} (b : Byte) (hk : k < n) :
    (bytesFrom s base n).getD k b = s.readByte (base + k) := by
  rw [List.getD_eq_getElem _ _ (by rwa [length_bytesFrom])]
  simp [bytesFrom]

theorem okState_ldRegs (x : Reg) (s : State) :
    okState (.ldRegs x) s =
      { s with v := (s.loadRegs (bytesFrom s s.base (countOf x))).v, pc := s.pc + 2, response := .ok } := by
  simp only [okState, effect, pcWhenOk]
  rfl

/-- Settles O33: each register up to `x` takes its byte, and the others have none. -/
theorem bulkLoadReadsMemory : Obligations.BulkLoadReadsMemory := by
  intro x s
  refine ⟨fun h => ?_, fun h => exec_of_fault (i := .ldRegs x) (rangeCondition_of_exceeds h)⟩
  have hexec := exec_of_ok (i := .ldRegs x) (rangeCondition_of_fits h) rfl
  rw [okState_ldRegs] at hexec
  refine ⟨_, hexec, rfl, fun r hr => ?_, fun r hr => ?_⟩
  · show (s.loadRegs _).getV r = _
    rw [State.getV_loadRegs]
    exact getD_bytesFrom _ _ _ (Nat.lt_succ_of_le hr)
  · show (s.loadRegs _).getV r = _
    rw [State.getV_loadRegs, List.getD_eq_default]
    rw [length_bytesFrom]
    exact hr

/-- Settles O34: the load reads the bytes that the store wrote. -/
theorem bulkLoadInvertsBulkStore : Obligations.BulkLoadInvertsBulkStore := by
  intro x s t u w h hst hmem hindex hld r hr
  obtain ⟨t', hst', -, hstored, -⟩ := (bulkStoreWritesRegisters x s).1 h
  obtain ⟨w', hld', -, hloaded, -⟩ := (bulkLoadReadsMemory x u).1 (by rwa [hindex])
  cases hst.symm.trans hst'
  cases hld.symm.trans hld'
  rw [hloaded r hr, hindex, State.readByte, hmem]
  exact hstored r hr

/-- Settles O35: the two bytes of the fetch are two of the bytes stored. -/
theorem storedBytesAreFetchedNext : Obligations.StoredBytesAreFetchedNext := by
  intro x r r' s t hr hr' hsucc h hpc hst
  obtain ⟨t', hst', ht, hstored, -⟩ := (bulkStoreWritesRegisters x s).1 h
  cases hst.symm.trans hst'
  have hr'x : r'.val ≤ x.val := hr'
  have htpc : t.pc.toNat = s.index.toNat + r.val := by
    rw [ht, ← hpc]
    show (s.pc + 2#16).toNat = _
    bv_omega
  rw [fetch_of_le (by omega), htpc, Nat.add_assoc, ← hsucc, hstored r hr, hstored r' hr']

/-! ### Drawing -/

/-- The sprite of R132 in the terms of the blit: the cell `k` is that of row `j` and column `c` exactly where it lies
that far from the origin, each axis on its own ring. -/
theorem spriteCell_eq_iff_offset {ox oy j c k : Nat} (hk : k < 2048) (hj : j < 32) (hc : c < 64) :
    spriteCell (ox % 64) (oy % 32) j c = k ↔ j = (k / 64 + 32 - oy % 32) % 32 ∧ c = (k % 64 + 64 - ox % 64) % 64 := by
  rw [spriteCell_eq_iff]
  omega

theorem mem_spriteCells_iff_covers (s : State) (x y : Reg) {n k : Nat} (hn : n ≤ 32) (hk : k < 2048) :
    k ∈ spriteCells (originX x s) (originY y s) 0 (bytesFrom s s.base n) ↔ spriteCovers s x y n k = true := by
  have hcell {j c : Nat} (hj : j < n) (hc : c < 8) :=
    spriteCell_eq_iff_offset (ox := (s.getV x).toNat) (oy := (s.getV y).toNat) hk (Nat.lt_of_lt_of_le hj hn)
      (Nat.lt_of_lt_of_le hc (by decide : 8 ≤ 64))
  rw [mem_spriteCells, length_bytesFrom]
  simp only [spriteCovers, Bool.and_eq_true, decide_eq_true_eq, Nat.zero_add]
  constructor
  · rintro ⟨j, hj, c, hc, hbit, hk'⟩
    obtain ⟨rfl, rfl⟩ := (hcell hj hc).1 hk'
    rw [getD_bytesFrom _ _ _ hj] at hbit
    exact ⟨⟨hj, hc⟩, hbit⟩
  · rintro ⟨⟨hj, hc⟩, hbit⟩
    refine ⟨_, hj, _, hc, ?_, (hcell hj hc).2 ⟨rfl, rfl⟩⟩
    rw [getD_bytesFrom _ _ _ hj]
    exact hbit

/-- The blit of a sprite in memory, by the cells it covers. -/
theorem blitOf_spec (s : State) (x y : Reg) (n : Nibble) :
    (∀ k, k < 2048 → cellAt (blitOf x y (bytesFrom s s.base n.toNat) s).fb k =
        (cellAt s.fb k ^^ spriteCovers s x y n.toNat k)) ∧
      ((blitOf x y (bytesFrom s s.base n.toNat) s).collision = true ↔
        ∃ k, cellAt s.fb k = true ∧ spriteCovers s x y n.toNat k = true) := by
  have hn : n.toNat ≤ 32 := by omega
  have hnodup := spriteCells_nodup (originX x s) (originY y s) 0 (bytesFrom s s.base n.toNat)
    (by rw [length_bytesFrom]; omega)
  have hlt : ∀ k ∈ spriteCells (originX x s) (originY y s) 0 (bytesFrom s s.base n.toNat), k < 2048 := by
    intro k hk
    obtain ⟨j, -, c, -, -, rfl⟩ := mem_spriteCells.1 hk
    exact spriteCell_lt _ _ _ _
  obtain ⟨hfb, hcoll⟩ := Blit.flips_of_nodup hnodup hlt ⟨s.fb, false⟩
  rw [← Blit.rows_eq_flips] at hfb hcoll
  refine ⟨fun k hk => (hfb k hk).trans ?_, ?_⟩
  · congr 1
    rw [Bool.eq_iff_iff, decide_eq_true_iff, mem_spriteCells_iff_covers s x y hn hk]
  · rw [blitOf, hcoll, Bool.false_or, List.any_eq_true]
    refine exists_congr fun k => ⟨fun ⟨hk, hset⟩ => ⟨hset, ?_⟩, fun ⟨hset, hk⟩ => ⟨?_, hset⟩⟩
    · exact (mem_spriteCells_iff_covers s x y hn (hlt k hk)).1 hk
    · exact (mem_spriteCells_iff_covers s x y hn (lt_of_cellAt hset)).2 hk

theorem rangeCondition_nibble_of_fits {base : Nat} {n : Nibble} (h : base + n.toNat ≤ 0x1000 ∨ n = 0) :
    rangeCondition base n.toNat = none :=
  rangeCondition_eq_none_iff.2 (h.symm.imp_left fun hn => by rw [hn]; rfl)

theorem rangeCondition_nibble_of_exceeds {base : Nat} {n : Nibble} (h : 0x1000 < base + n.toNat ∧ n ≠ 0) :
    rangeCondition base n.toNat = some ⟨.memRange, BitVec.ofNat 16 (base + n.toNat - 1)⟩ := by
  obtain ⟨h, hn⟩ := h
  have hpos : 0 < n.toNat := Nat.pos_of_ne_zero fun h0 => hn (BitVec.eq_of_toNat_eq h0)
  exact if_pos ⟨hpos, by omega⟩

/-- Settles O37: by the blit of the sprite, and VF as its collision. -/
theorem drawXorsTheSprite : Obligations.DrawXorsTheSprite := by
  intro x y n s
  refine ⟨fun h => ?_, fun h => exec_of_fault (i := .drw x y n) (rangeCondition_nibble_of_exceeds h)⟩
  obtain ⟨hfb, hcoll⟩ := blitOf_spec s x y n
  have hvf : (okState (.drw x y n) s).getV 15 = flagByte (blitOf x y (bytesFrom s s.base n.toNat) s).collision :=
    (State.getV_setFlag (s.setFb _) _ 15).trans (if_pos rfl)
  refine ⟨_, exec_of_ok (rangeCondition_nibble_of_fits h) rfl, ?_, hfb, fun hex => ?_, fun hno => ?_⟩
  · rw [hvf]
    rfl
  · rw [hvf, hcoll.2 hex]
    rfl
  · have hnone : (blitOf x y (bytesFrom s s.base n.toNat) s).collision = false := by
      rw [Bool.eq_false_iff, Ne, hcoll]
      rintro ⟨k, hset, hcov⟩
      exact absurd hcov (Bool.eq_false_iff.1 (hno k hset))
    rw [hvf, hnone]
    rfl

/-- Settles O38: every cell is XORed twice with the same bit. -/
theorem drawingTwiceRestoresTheDisplay : Obligations.DrawingTwiceRestoresTheDisplay := by
  intro x y n s t u w hdraw hok hfb hindex hmem hx hy hdraw'
  have hfits : s.index.toNat + n.toNat ≤ 0x1000 ∨ n = 0 := by
    by_contra hnot
    rw [(drawXorsTheSprite x y n s).2 (by simpa using hnot)] at hdraw
    cases hdraw
    nomatch hok
  have hcovers : spriteCovers u x y n.toNat = spriteCovers s x y n.toNat := by
    funext k
    simp only [spriteCovers, State.readByte, hindex, hmem, hx, hy]
  obtain ⟨t', ht, -, hcell, -⟩ := (drawXorsTheSprite x y n s).1 hfits
  obtain ⟨w', hw, -, hcell', -⟩ := (drawXorsTheSprite x y n u).1 (by rwa [hindex])
  cases hdraw.symm.trans ht
  cases hdraw'.symm.trans hw
  refine FrameBuffer.eq_of_cellAt_eq fun k hk => ?_
  rw [hcell' k hk, hfb, hcell k hk, hcovers, Bool.xor_assoc, Bool.xor_self, Bool.xor_false]

end Sys2Proof
end
